-- ==== Sys2Proof/Word.lean ====
section
/-! DEFINITION. The word types: 64-bit registers (00_scope.md R10, R11), bytes, and the S-box table. -/

namespace Sys2Proof

/-- A 64-bit register value (00_scope.md R7, R11). -/
abbrev Word := BitVec 64

/-- An 8-bit value: an S-box entry, a lane, one byte of a bus access. -/
abbrev Byte := BitVec 8

/-- The S-box ROM: exactly 256 entries of 8 bits (00_scope.md R10, 10_state.md R23). -/
abbrev Sbox := Vector Byte 256

/-- The 7-bit offset of a bus address inside the 128-byte window (20_memory.md R50). -/
abbrev Offset := BitVec 7

end Sys2Proof
end

