-- ==== Sys2Proof/Config.lean ====
section
/-! DEFINITION. The open parameters of 00_scope.md R9, each a constant with no body, so that no proof can see its value. -/

namespace Sys2Proof

/-- SBOX: the contents of the S-box ROM, in no source (91_not_in_source.md N1, 92_eei_decisions.md D39).
`State.reset` holds it, and no rule assumes any property of it (log entry 4). -/
opaque Config.sbox : Sbox

/-- BASE divided by 128: the window's place on the bus (20_memory.md R50, log entry 5). -/
opaque Config.baseBlock : BitVec 57

/-- LATENCY: how many steps of the total order pass between the n-th acceptance and its engine step
(70_reset_and_hazards.md R250, 92_eei_decisions.md D37, log entry 3). -/
opaque Config.latency : Nat → Nat

end Sys2Proof
end

