-- ==== Sys2Proof/Syntax.lean ====
section
/-! DEFINITION. The commands (30_encoding.md R72), the register names (10_state.md R24), and the host-side statements
and pseudo-instructions (30_encoding.md R78, R79). -/

namespace Sys2Proof

/-- One constructor per row of the opcode table. A command word carries no operand (30_encoding.md R71): the operands are
the latched ARG registers. -/
inductive Instr
  | configure
  | shuffle
  | unshuffle
  | encrypt
  | decrypt
  | roundf
  | sboxrd
  deriving DecidableEq, Repr

/-- The twelve host-visible registers (10_state.md R24). -/
inductive RegName
  | cmd
  | status
  | arg0
  | arg1
  | arg2
  | result
  | rangeLen
  | rounds
  | seed
  | a
  | b
  | iterCount
  deriving DecidableEq, Repr

/-- One statement of the spec's host-side assembly (30_encoding.md R78). An immediate is an integer. -/
inductive HostStmt
  | wr (reg : RegName) (imm : Int)
  | rd (reg : RegName)
  | cmd (i : Instr)
  | poll
  deriving DecidableEq, Repr

/-- The seven pseudo-instructions (30_encoding.md R79), with the spec's operand names. -/
inductive Pseudo
  | configure (n r s : Int)
  | shuffle (x : Int)
  | unshuffle (y : Int)
  | encrypt (m : Int)
  | decrypt (m : Int)
  | roundf (j x : Int)
  | sboxrd (i : Int)
  deriving DecidableEq, Repr

end Sys2Proof
end

