-- ==== Sys2Proof/Machine/State.lean ====
section
/-! DEFINITION. The state of the block: every piece that 10_state.md names, the S-box ROM, and four fields of the model's own
(what is left of LATENCY, the count of free values drawn, the host inputs to come, the bus responses given). -/

namespace Sys2Proof.Machine

/-- The configuration record (10_state.md R20). `rounds` is two's complement. -/
structure Cfg where
  rangeLen : Word
  rounds : Word
  seed : Word
  a : Word
  b : Word
  deriving DecidableEq, Repr

/-- The values of ERRCODE the block writes (60_exceptions.md R200). The codes 0x08 to 0xFF are never written. -/
inductive ErrorCode
  | none
  | illegalCmd
  | indexRange
  | domainRange
  | roundRange
  | sboxIndex
  | cfgOverflow
  | walkLimit
  deriving DecidableEq, Repr

/-- The STATUS fields (10_state.md R26). The reserved bits 7:5 and 63:16 are never set and read 0, so they hold nothing. -/
structure Status where
  busy : Bool
  done : Bool
  err : Bool
  errSticky : Bool
  overrun : Bool
  errcode : ErrorCode
  deriving DecidableEq, Repr

/-- One accepted command in the latch (10_state.md R33). -/
structure Latched where
  word : Word
  arg0 : Word
  arg1 : Word
  arg2 : Word
  deriving DecidableEq, Repr

/-- What the world outside does to the block, one event of the total order of 20_memory.md R61. -/
inductive HostInput
  /-- The reset input (70_reset_and_hazards.md R232). -/
  | reset
  /-- A host read of `width` bytes at `BASE + off` (20_memory.md R51, R53). -/
  | read (off : Offset) (width : Nat)
  /-- A host write of `width` bytes at `BASE + off` (20_memory.md R52, R53); `data` is the number it carries. -/
  | write (off : Offset) (width : Nat) (data : Word)
  /-- The `poll` statement: read STATUS again and again until BUSY = 0 (30_encoding.md R78). -/
  | poll
  deriving DecidableEq, Repr

/-- What the block answers on the bus. -/
inductive Response
  /-- The value a legal read returns (20_memory.md R51). -/
  | data (v : Word)
  /-- A legal write was taken (20_memory.md R52, R54). -/
  | ack
  /-- BusError (20_memory.md R53): no data, no state change. -/
  | busError (off : Offset)
  deriving DecidableEq, Repr

/-- Why the machine stops. No event of the spec stops the block (60_exceptions.md R214). -/
inductive Fault
  /-- Raised by every meaning when it is run on a state whose command latch is empty. `step` never does so. Safe: the block
  executes only a latched command (10_state.md R33, log entry 1). -/
  | latchEmpty
  deriving DecidableEq, Repr

/-- Why an instruction has no meaning. -/
inductive Refusal
  /-- Raised by `exec` for an instruction with no meaning yet. Safe. No arm of this model uses it. -/
  | notModelled (mnemonic : String)
  deriving DecidableEq, Repr

/-- The whole machine. -/
structure State where
  /-- The configuration (10_state.md R20). -/
  cfg : Cfg
  /-- ARG0 (10_state.md R25). -/
  arg0 : Word
  /-- ARG1 (10_state.md R25). -/
  arg1 : Word
  /-- ARG2 (10_state.md R25). -/
  arg2 : Word
  /-- RESULT (10_state.md R27). -/
  result : Word
  /-- ITER_COUNT (10_state.md R29). -/
  iterCount : Word
  /-- STATUS (10_state.md R26). -/
  status : Status
  /-- The command latch (10_state.md R33). -/
  latch : Option Latched
  /-- The S-box ROM (10_state.md R23). Nothing writes it. -/
  sbox : Sbox
  /-- The model's own: steps left before the engine step (log entry 3). -/
  delay : Nat
  /-- The model's own: free latencies drawn so far (log entry 3). -/
  draws : Nat
  /-- The model's own: the host inputs to come, first first (log entry 2). -/
  inputs : List HostInput
  /-- The model's own: the bus responses given, newest first (log entry 8). -/
  responses : List Response
  deriving DecidableEq, Repr

/-- The reset configuration (70_reset_and_hazards.md R230). -/
def Cfg.reset : Cfg := { rangeLen := 0, rounds := 0, seed := 0, a := 0, b := 0 }

/-- STATUS = 0 (70_reset_and_hazards.md R230). -/
def Status.reset : Status :=
  { busy := false, done := false, err := false, errSticky := false, overrun := false, errcode := .none }

/-- The machine right after reset (70_reset_and_hazards.md R230). The ROM holds the open parameter SBOX. -/
def State.reset : State :=
  { cfg := Cfg.reset
    arg0 := 0
    arg1 := 0
    arg2 := 0
    result := 0
    iterCount := 0
    status := Status.reset
    latch := none
    sbox := Config.sbox
    delay := 0
    draws := 0
    inputs := []
    responses := [] }

end Sys2Proof.Machine
end

