-- ==== Sys2Proof/Machine/Flags.lean ====
section
/-! DEFINITION. STATUS: its error codes, its bits as one 64-bit number, and every change the spec makes to it. The block has no
other flag, and no arithmetic result sets one (10_state.md R31). -/

namespace Sys2Proof.Machine

/-- The number of an error code (60_exceptions.md R200). -/
def ErrorCode.code : ErrorCode → Byte
  | .none => 0x00
  | .illegalCmd => 0x01
  | .indexRange => 0x02
  | .domainRange => 0x03
  | .roundRange => 0x04
  | .sboxIndex => 0x05
  | .cfgOverflow => 0x06
  | .walkLimit => 0x07

/-- What a host reads from STATUS (10_state.md R26): ERRCODE in bits 15:8, OVERRUN 4, ERR_STICKY 3, ERR 2, DONE 1, BUSY 0, and
zero in the reserved bits. -/
def Status.word (t : Status) : Word :=
  0#48 ++ t.errcode.code ++ 0#3 ++ BitVec.ofBool t.overrun ++ BitVec.ofBool t.errSticky ++ BitVec.ofBool t.err
    ++ BitVec.ofBool t.done ++ BitVec.ofBool t.busy

/-- Acceptance (10_state.md R33): BUSY is set; DONE, ERR and ERRCODE are cleared; the sticky bits keep. -/
def Status.accepted (t : Status) : Status :=
  { t with busy := true, done := false, err := false, errcode := .none }

/-- Completion without an error (60_exceptions.md R201): ERR_STICKY and OVERRUN keep. -/
def Status.completedOk (t : Status) : Status :=
  { t with busy := false, done := true, err := false, errcode := .none }

/-- Completion with an error (60_exceptions.md R201): ERR_STICKY is set, OVERRUN keeps. -/
def Status.completedError (e : ErrorCode) (t : Status) : Status :=
  { t with busy := false, done := true, err := true, errSticky := true, errcode := e }

/-- A CMD write while BUSY (70_reset_and_hazards.md R241): only the sticky OVERRUN bit changes. -/
def Status.overrunMarked (t : Status) : Status := { t with overrun := true }

end Sys2Proof.Machine
end

