-- ==== Sys2Proof/WellFormed.lean ====
section
/-! DEFINITION. When a command word is well-formed: its RSVD field is zero and its OPC is assigned
(30_encoding.md R70, R72, R75). -/

namespace Sys2Proof

/-- RSVD, bits 63 to 8, must be 0 (30_encoding.md R70). -/
def reservedClear (w : Word) : Bool := w.toNat / 256 == 0

/-- OPC, bits 7 to 0, is one of the seven assigned opcodes 0x01 to 0x07 (30_encoding.md R72). -/
def opcodeAssigned (w : Word) : Bool := 1 ≤ w.toNat % 256 && w.toNat % 256 ≤ 7

/-- A command word that some command has (30_encoding.md R75: every other word is illegal). -/
def commandWordWellFormed (w : Word) : Bool := reservedClear w && opcodeAssigned w

/-- A command as syntax has no field, so no check can refuse it (30_encoding.md R71). -/
def Instr.wellFormed : Instr → Bool
  | .configure => true
  | .shuffle => true
  | .unshuffle => true
  | .encrypt => true
  | .decrypt => true
  | .roundf => true
  | .sboxrd => true

/-- The range in which 30_encoding.md R78 gives an immediate a 64-bit meaning without loss: an unsigned 64-bit number, or a
negative number written as its two's-complement bits. -/
def immediateFits (imm : Int) : Bool := -(2 ^ 63 : Int) ≤ imm && imm < (2 ^ 64 : Int)

/-- A statement is well-formed when its immediate, if it has one, fits 64 bits. -/
def HostStmt.wellFormed : HostStmt → Bool
  | .wr _ imm => immediateFits imm
  | .rd _ => true
  | .cmd i => i.wellFormed
  | .poll => true

end Sys2Proof
end

