-- ==== Sys2Proof/Decode.lean ====
section
/-! DEFINITION. The decoder of 30_encoding.md R74, total over all words and all byte strings and rejecting by name, and after
it the encoder, from the opcode map of R72. -/

namespace Sys2Proof

/-- Why a word is ILLEGAL (30_encoding.md R74, R75), or why bytes are no command word (R70: exactly 64 bits). -/
inductive DecodeReject
  /-- RSVD is not zero. -/
  | reservedBits
  /-- OPC is 0x00 or 0x08 to 0xFF. -/
  | unassignedOpcode
  /-- The bytes are not exactly 8. -/
  | notOneWord
  deriving DecidableEq, Repr

/-- Bits 63 to 8 of the command word (30_encoding.md R70). -/
def rsvdField (w : Word) : BitVec 56 := w.extractLsb' 8 56

/-- Bits 7 to 0 of the command word (30_encoding.md R70). -/
def opcField (w : Word) : Byte := w.extractLsb' 0 8

/-- The opcode map (30_encoding.md R72) read from opcode to command. -/
def instrOfOpcode (opc : Byte) : Option Instr :=
  if opc = 0x01#8 then some .configure
  else if opc = 0x02#8 then some .shuffle
  else if opc = 0x03#8 then some .unshuffle
  else if opc = 0x04#8 then some .encrypt
  else if opc = 0x05#8 then some .decrypt
  else if opc = 0x06#8 then some .roundf
  else if opc = 0x07#8 then some .sboxrd
  else none

/-- `decode` of 30_encoding.md R74: RSVD is looked at first. -/
def decode (w : Word) : Except DecodeReject Instr :=
  if rsvdField w ≠ 0 then .error .reservedBits
  else
    match instrOfOpcode (opcField w) with
    | some i => .ok i
    | none => .error .unassignedOpcode

/-- The 64-bit number that bytes carry, lowest address first: byte k is bits 8k+7 to 8k (20_memory.md R55). -/
def wordOfBytes : List Byte → Word
  | [] => 0
  | b :: bs => b.setWidth 64 ||| (wordOfBytes bs <<< 8)

/-- The eight bytes of a register value, lowest address first (20_memory.md R55). -/
def bytesOfWord (w : Word) : List Byte := (List.range 8).map fun k => w.extractLsb' (8 * k) 8

/-- The decoder on bytes as an interconnect carries them; every command is exactly 64 bits (30_encoding.md R70, R76). -/
def decodeBytes (bs : List Byte) : Except DecodeReject Instr :=
  if bs.length = 8 then decode (wordOfBytes bs) else .error .notOneWord

/-- The opcode map (30_encoding.md R72) read from command to opcode. -/
def opcodeOf : Instr → Byte
  | .configure => 0x01#8
  | .shuffle => 0x02#8
  | .unshuffle => 0x03#8
  | .encrypt => 0x04#8
  | .decrypt => 0x05#8
  | .roundf => 0x06#8
  | .sboxrd => 0x07#8

/-- The command word of a command: its opcode in OPC, zero in RSVD (30_encoding.md R70). -/
def encode (i : Instr) : Word := 0#56 ++ opcodeOf i

/-- The bits of an instruction as the opcode table numbers them; every bit at nbits and above is 0. -/
def tableBits (nbits w : Nat) : Nat := w % 2 ^ nbits

/-- The instruction the decoder reads from those bits, laid out as the bus carries them; none where it refuses. -/
def decodeTableWord (nbits w : Nat) : Option Instr :=
  if tableBits nbits w < 2 ^ 64 then
    match decodeBytes (bytesOfWord (BitVec.ofNat 64 (tableBits nbits w))) with
    | .ok i => some i
    | .error _ => none
  else none

end Sys2Proof
end

