-- ==== Sys2Proof/Machine/Operands.lean ====
section
/-! DEFINITION. How 64-bit values are read and shifted (00_scope.md R11, R12, R13), and where the registers stand in the window
(10_state.md R24, 20_memory.md R50, R53). Operands are whole latched registers (30_encoding.md R77). -/

namespace Sys2Proof.Machine

/-- `u64(n)` for a natural number: `n mod 2^64` (00_scope.md R11). -/
def u64 (n : Nat) : Word := BitVec.ofNat 64 n

/-- `sint64(v)`: the signed reading (00_scope.md R11). -/
def sint64 (v : Word) : Int := v.toInt

/-- `odd(r)`: bit 0 of the two's-complement bits (00_scope.md R13, 92_eei_decisions.md D15). -/
def odd (r : Word) : Bool := r.getLsbD 0

/-- `shl64(x, n)`: 0 for `n ≥ 64` (00_scope.md R12, 92_eei_decisions.md D18). -/
def shl64 (x : Word) (n : Nat) : Word := if n < 64 then u64 (x.toNat * 2 ^ n) else 0

/-- `shr64(x, n)`: the logical shift, 0 for `n ≥ 64` (00_scope.md R12). -/
def shr64 (x : Word) (n : Nat) : Word := if n < 64 then u64 (x.toNat / 2 ^ n) else 0

/-- `zext64` of an S-box value (41_datapath.md R120). -/
def zext64 (v : Byte) : Word := v.setWidth 64

/-- The offset of a register from BASE (10_state.md R24). -/
def regOffset : RegName → Offset
  | .cmd => 0x00
  | .status => 0x08
  | .arg0 => 0x10
  | .arg1 => 0x18
  | .arg2 => 0x20
  | .result => 0x28
  | .rangeLen => 0x30
  | .rounds => 0x38
  | .seed => 0x40
  | .a => 0x48
  | .b => 0x50
  | .iterCount => 0x58

/-- The registers in the order of their slots (10_state.md R24). -/
def slotOrder : List RegName :=
  [.cmd, .status, .arg0, .arg1, .arg2, .result, .rangeLen, .rounds, .seed, .a, .b, .iterCount]

/-- The legality rule of 20_memory.md R53: 8 bytes wide, 8-byte aligned, offset at most 0x58. -/
def accessLegal (off : Offset) (width : Nat) : Bool :=
  width == 8 && off.toNat % 8 == 0 && off.toNat ≤ 0x58

/-- The register a host access reaches; none is a bus error (20_memory.md R53). -/
def accessTarget (off : Offset) (width : Nat) : Option RegName :=
  if accessLegal off width then slotOrder[off.toNat / 8]? else none

end Sys2Proof.Machine
end

