-- ==== Sys2Proof/Machine/Ops.lean ====
section
/-! DEFINITION. The named operations over the registers and the latch: reading and writing a register from the bus, accepting a
command, completing it, and raising an error, which is the one thing the block has in place of taking an exception
(60_exceptions.md R201, R214). There is no return from an exception (60_exceptions.md R215). -/

namespace Sys2Proof.Machine

/-- What a legal read returns (20_memory.md R51). CMD holds no state and reads 0. -/
def readReg (r : RegName) (s : State) : Word :=
  match r with
  | .cmd => 0
  | .status => s.status.word
  | .arg0 => s.arg0
  | .arg1 => s.arg1
  | .arg2 => s.arg2
  | .result => s.result
  | .rangeLen => s.cfg.rangeLen
  | .rounds => s.cfg.rounds
  | .seed => s.cfg.seed
  | .a => s.cfg.a
  | .b => s.cfg.b
  | .iterCount => s.iterCount

/-- Put a command word in the latch with the current ARG registers, as acceptance does (10_state.md R33); the engine step is
`delay` steps away. -/
def latchCommand (w : Word) (delay : Nat) (s : State) : State :=
  { s with
    latch := some { word := w, arg0 := s.arg0, arg1 := s.arg1, arg2 := s.arg2 }
    status := s.status.accepted
    delay := delay }

/-- `Accept(v)` (10_state.md R33). How far the engine step is away is a free value, fresh at every acceptance (log entry 3). -/
def accept (w : Word) (s : State) : State :=
  { latchCommand w (Config.latency s.draws) s with draws := s.draws + 1 }

/-- A CMD write while BUSY: the word is dropped and OVERRUN is set (70_reset_and_hazards.md R241). -/
def markOverrun (s : State) : State := { s with status := s.status.overrunMarked }

/-- A write to CMD tests BUSY and accepts or drops, in one action (20_memory.md R52, R66). -/
def writeCmd (w : Word) (s : State) : State := if s.status.busy then markOverrun s else accept w s

/-- The effect of a legal write (20_memory.md R52); a read-only register ignores it (R54). -/
def writeReg (r : RegName) (v : Word) (s : State) : State :=
  match r with
  | .cmd => writeCmd v s
  | .status => s
  | .arg0 => { s with arg0 := v }
  | .arg1 => { s with arg1 := v }
  | .arg2 => { s with arg2 := v }
  | .result => s
  | .rangeLen => s
  | .rounds => s
  | .seed => s
  | .a => s
  | .b => s
  | .iterCount => s

/-- The completion action of a command that succeeds (10_state.md R33, 60_exceptions.md R201). The command's own results are
already in `s`. -/
def completeOk (s : State) : State := { s with latch := none, status := s.status.completedOk }

/-- `raise Error(e)`: the completion action of a command that fails (60_exceptions.md R201). -/
def raiseError (e : ErrorCode) (s : State) : State :=
  { s with latch := none, status := s.status.completedError e }

/-- A value-producing command succeeds: RESULT and the completion action together (10_state.md R27, R33). -/
def completeWith (v : Word) (s : State) : State := completeOk { s with result := v }

/-- Run a meaning on the latched command (10_state.md R33: "using only the latched operands"). -/
def onLatched (s : State) (k : Latched → State) : Host.Outcome State Fault Refusal :=
  match s.latch with
  | some c => .next (k c)
  | none => .fault .latchEmpty

/-- Give an answer on the bus. -/
def respond (r : Response) (s : State) : State := { s with responses := r :: s.responses }

/-- `HostRead` (20_memory.md R51, R53). -/
def hostRead (off : Offset) (width : Nat) (s : State) : State :=
  match accessTarget off width with
  | some r => respond (.data (readReg r s)) s
  | none => respond (.busError off) s

/-- `HostWrite` (20_memory.md R52, R53, R54). -/
def hostWrite (off : Offset) (width : Nat) (v : Word) (s : State) : State :=
  match accessTarget off width with
  | some r => respond .ack (writeReg r v s)
  | none => respond (.busError off) s

/-- Taking reset (70_reset_and_hazards.md R230, R232): every register as after reset, the latch empty, the ROM unchanged. What the
world outside still does, what it was answered, and the count of free values are not the block's and stay (log entry 20). -/
def resetBlock (s : State) : State :=
  { State.reset with sbox := s.sbox, draws := s.draws, inputs := s.inputs, responses := s.responses }

end Sys2Proof.Machine
end

