-- ==== Sys2Proof/Machine/Configure.lean ====
section
/-! DEFINITION. CONFIGURE and the construction it performs (40_configure.md). -/

namespace Sys2Proof.Machine

/-- Digit by digit from bit `k - 1` down: the largest `r + d` with `d < 2^k` whose square is at most `n`. -/
def isqrtDigits (n : Nat) : Nat → Nat → Nat
  | 0, r => r
  | k + 1, r => if (r + 2 ^ k) * (r + 2 ^ k) ≤ n then isqrtDigits n k (r + 2 ^ k) else isqrtDigits n k r

/-- `isqrt(n)`, exact for `n < 2^64` (40_configure.md R102, log entry 14). -/
def isqrt (n : Nat) : Nat := isqrtDigits n 32 0

/-- The small-range table for `n` from 0 to 8, before the post-adjustment (40_configure.md R103). -/
def smallModuli : List (Nat × Nat) :=
  [(0, 0), (1, 1), (1, 2), (2, 2), (2, 3), (2, 3), (2, 3), (3, 3), (3, 3)]

/-- The starting moduli (40_configure.md R103, R104). -/
def startModuli (n : Nat) : Nat × Nat := smallModuli.getD n (isqrt n - 2, isqrt n + 3)

/-- `while a * b ≤ n: b <- b + 1` with exact products (40_configure.md R105); `fuel` bounds the increments. -/
def raiseB (a n : Nat) : Nat → Nat → Nat
  | 0, b => b
  | fuel + 1, b => if a * b ≤ n then raiseB a n fuel (b + 1) else b

/-- The loop ends after at most 10 increments (40_configure.md R106, log entry 13). -/
def maxIncrements : Nat := 10

/-- `Moduli(n)` (40_configure.md R102 to R106): exact numbers; no adjustment for `n = 0`. -/
def moduli (n : Nat) : Nat × Nat :=
  let p := startModuli n
  if n = 0 then p else (p.1, raiseB p.1 n maxIncrements p.2)

/-- `ClampRounds(req)` (40_configure.md R101): clamped above at 64, no lower clamp. -/
def clampRounds (req : Word) : Word := if sint64 req > 64 then 64 else req

/-- The configuration CONFIGURE builds, or none for CFG_OVERFLOW (40_configure.md R100, R107, R108). -/
def construct (n req seed : Word) : Option Cfg :=
  let p := moduli n.toNat
  if 2 ^ 64 ≤ p.1 * p.2 then none
  else some { rangeLen := n, rounds := clampRounds req, seed := seed, a := u64 p.1, b := u64 p.2 }

/-- CONFIGURE (40_configure.md R100). -/
def execConfigure (s : State) : Host.Outcome State Fault Refusal :=
  onLatched s fun c =>
    match construct c.arg0 c.arg1 c.arg2 with
    | some cfg => completeOk { s with cfg := cfg }
    | none => raiseError .cfgOverflow s

end Sys2Proof.Machine
end

