-- ==== Sys2Proof/Machine/Datapath.lean ====
section
/-! DEFINITION. The pure functions of 41_datapath.md, leaves first: S-box, round function, modular reduction unit, Feistel core;
and the cycle walker of 42_commands.md R160. -/

namespace Sys2Proof.Machine

/-- `Sbox(i)` (41_datapath.md R120). -/
def sboxAt (t : Sbox) (i : Byte) : Byte := t[i.toNat]

/-- The key-mixing term of step 1 (41_datapath.md R121, R122). -/
def mixTerm (seed : Word) (j : Nat) : Word := shl64 seed j ^^^ shr64 seed (64 - j)

/-- Step 1: the mixed operand. -/
def mixed (seed : Word) (j : Nat) (x : Word) : Word := x ^^^ shl64 seed j ^^^ shr64 seed (64 - j)

/-- Step 2: lane `n` of the mixed operand `rr` (41_datapath.md R121, R123). -/
def lane (rr seed : Word) (j n : Nat) : Byte := ((shr64 rr (8 * n) ^^^ seed ^^^ u64 j) &&& 0xFF).setWidth 8

/-- Step 4: recombination of the eight substituted, zero-extended values (41_datapath.md R121, R125). -/
def recombine (s : Nat → Word) : Word :=
  let r0 := s 0 ||| shl64 (s 1) 8
  let r1 := shl64 (s 2) 16 ||| shl64 (s 3) 24
  let r2 := s 4 ||| shl64 (s 5) 8
  let r3 := shl64 (s 6) 16 ||| shl64 (s 7) 24
  r0 ^^^ r1 ^^^ shl64 r2 23 ^^^ shl64 r3 33

/-- `F(j, x)` (41_datapath.md R121). -/
def roundF (t : Sbox) (seed : Word) (j : Nat) (x : Word) : Word :=
  recombine fun n => zext64 (sboxAt t (lane (mixed seed j x) seed j n))

/-- `M_j` (41_datapath.md R128). -/
def modulus (c : Cfg) (j : Nat) : Word := if j % 2 = 1 then c.a else c.b

/-- The Feistel halves `(rr, ll)` (41_datapath.md R136). -/
structure Halves where
  rr : Word
  ll : Word
  deriving DecidableEq, Repr

/-- `Combine(hi, lo)` (41_datapath.md R130), formed exactly and then narrowed. -/
def combine (c : Cfg) (hi lo : Word) : Word := u64 (c.a.toNat * hi.toNat + lo.toNat)

/-- `AddMod(l, f, M)` (41_datapath.md R132), the sum formed exactly. -/
def addMod (l f m : Word) : Word := u64 ((l.toNat + f.toNat) % m.toNat)

/-- `SubMod(r, t, M)` (41_datapath.md R133), with the source's branch and its correction. -/
def subMod (r t m : Word) : Word :=
  if t.toNat > r.toNat then
    let v := m.toNat - (t.toNat - r.toNat) % m.toNat
    if v = m.toNat then 0 else u64 v
  else u64 ((r.toNat - t.toNat) % m.toNat)

/-- How many rounds run: none for a stored count at or below 0 (41_datapath.md R137, R141). -/
def roundCount (c : Cfg) : Nat := (sint64 c.rounds).toNat

/-- Round `j` of Encrypt: both components from the values before the round (41_datapath.md R137). -/
def encryptRound (t : Sbox) (c : Cfg) (j : Nat) (h : Halves) : Halves :=
  { rr := addMod h.ll (roundF t c.seed j h.rr) (modulus c j), ll := h.rr }

/-- Rounds 1 to `n` of Encrypt, in that order. -/
def encryptRounds (t : Sbox) (c : Cfg) : Nat → Halves → Halves
  | 0, h => h
  | j + 1, h => encryptRound t c (j + 1) (encryptRounds t c j h)

/-- `Encrypt(m)` (41_datapath.md R137). -/
def encryptCore (t : Sbox) (c : Cfg) (m : Word) : Word :=
  let h := encryptRounds t c (roundCount c) { rr := u64 (m.toNat / c.a.toNat), ll := u64 (m.toNat % c.a.toNat) }
  if odd c.rounds then combine c h.ll h.rr else combine c h.rr h.ll

/-- Round `j` of Decrypt (41_datapath.md R142). -/
def decryptRound (t : Sbox) (c : Cfg) (j : Nat) (h : Halves) : Halves :=
  { rr := h.ll, ll := subMod h.rr (roundF t c.seed j h.ll) (modulus c j) }

/-- Rounds `n` down to 1 of Decrypt, in that order. -/
def decryptRounds (t : Sbox) (c : Cfg) : Nat → Halves → Halves
  | 0, h => h
  | j + 1, h => decryptRounds t c j (decryptRound t c (j + 1) h)

/-- `Decrypt(m)` (41_datapath.md R142): the first un-swap follows the parity of the round count. -/
def decryptCore (t : Sbox) (c : Cfg) (m : Word) : Word :=
  let hi := u64 (m.toNat / c.a.toNat)
  let lo := u64 (m.toNat % c.a.toNat)
  let start : Halves := if odd c.rounds then { rr := lo, ll := hi } else { rr := hi, ll := lo }
  let h := decryptRounds t c (roundCount c) start
  combine c h.rr h.ll

/-- The size of the Feistel domain, `cfg.a * cfg.b` as an exact number (10_state.md R22). -/
def domainSize (c : Cfg) : Nat := c.a.toNat * c.b.toNat

/-- The loop of `Walk` (42_commands.md R160) with `fuel` applications left before the walk limit, at value `cur` after `k`
applications: the value in range and the count, or none at the limit. The in-range test comes first. -/
def walkFrom (fn : Word → Word) (n : Word) : Nat → Word → Nat → Option (Word × Nat)
  | 0, _, _ => none
  | fuel + 1, cur, k =>
    if (fn cur).toNat < n.toNat then some (fn cur, k + 1) else walkFrom fn n fuel (fn cur) (k + 1)

/-- `Walk(fn, m)` (42_commands.md R160, R163): the limit is `cfg.a * cfg.b` applications. -/
def walk (fn : Word → Word) (c : Cfg) (m : Word) : Option (Word × Nat) :=
  walkFrom fn c.rangeLen (domainSize c) m 0

end Sys2Proof.Machine
end

