-- ==== Sys2Proof/Machine/Diagnostic.lean ====
section
/-! DEFINITION. The diagnostic commands ENCRYPT, DECRYPT, ROUNDF and SBOXRD (42_commands.md R170 to R180). -/

namespace Sys2Proof.Machine

/-- The domain check and the core application that ENCRYPT and DECRYPT share (42_commands.md R170, R172). -/
def coreCommand (fn : Word → Word) (m : Word) (s : State) : State :=
  if domainSize s.cfg ≤ m.toNat then raiseError .domainRange s else completeWith (fn m) s

/-- ENCRYPT (42_commands.md R170). -/
def execEncrypt (s : State) : Host.Outcome State Fault Refusal :=
  onLatched s fun c => coreCommand (encryptCore s.sbox s.cfg) c.arg0 s

/-- DECRYPT (42_commands.md R172). -/
def execDecrypt (s : State) : Host.Outcome State Fault Refusal :=
  onLatched s fun c => coreCommand (decryptCore s.sbox s.cfg) c.arg0 s

/-- ROUNDF (42_commands.md R175): the whole of ARG1 is compared with [1, 64]. -/
def execRoundf (s : State) : Host.Outcome State Fault Refusal :=
  onLatched s fun c =>
    if c.arg1.toNat < 1 ∨ 64 < c.arg1.toNat then raiseError .roundRange s
    else completeWith (roundF s.sbox s.cfg.seed c.arg1.toNat c.arg0) s

/-- SBOXRD (42_commands.md R180): the whole of ARG0 is compared with 255. -/
def execSboxrd (s : State) : Host.Outcome State Fault Refusal :=
  onLatched s fun c =>
    if 255 < c.arg0.toNat then raiseError .sboxIndex s
    else completeWith (zext64 (sboxAt s.sbox (c.arg0.setWidth 8))) s

end Sys2Proof.Machine
end

