-- ==== Sys2Proof/Machine/Walker.lean ====
section
/-! DEFINITION. SHUFFLE and UNSHUFFLE over the cycle walker (42_commands.md R160 to R164). -/

namespace Sys2Proof.Machine

/-- How a walk completes: the value and the count, or WALK_LIMIT with ITER_COUNT at the limit (42_commands.md R160, R161;
60_exceptions.md R201). -/
def completeWalk (w : Option (Word × Nat)) (s : State) : State :=
  match w with
  | some (v, k) => completeWith v { s with iterCount := u64 k }
  | none => raiseError .walkLimit { s with iterCount := u64 (domainSize s.cfg) }

/-- The operand check and the walk that SHUFFLE and UNSHUFFLE share (42_commands.md R161, R164). -/
def walkCommand (fn : Word → Word) (operand : Word) (s : State) : State :=
  if s.cfg.rangeLen.toNat ≤ operand.toNat then raiseError .indexRange s
  else completeWalk (walk fn s.cfg operand) s

/-- SHUFFLE (42_commands.md R161). -/
def execShuffle (s : State) : Host.Outcome State Fault Refusal :=
  onLatched s fun c => walkCommand (encryptCore s.sbox s.cfg) c.arg0 s

/-- UNSHUFFLE (42_commands.md R164). -/
def execUnshuffle (s : State) : Host.Outcome State Fault Refusal :=
  onLatched s fun c => walkCommand (decryptCore s.sbox s.cfg) c.arg0 s

end Sys2Proof.Machine
end

