-- ==== Sys2Proof/Machine/Engine.lean ====
section
/-! DEFINITION. Who moves next in the total order of 20_memory.md R61: the engine, when the latched command's latency has run
out, else the next host input. -/

namespace Sys2Proof.Machine

/-- The engine step: decode the latched word and execute it, or report ILLEGAL_CMD with no operand read
(10_state.md R33, 30_encoding.md R74, 60_exceptions.md R202). -/
def engineTurn (c : Latched) (s : State) : Host.Outcome State Fault Refusal :=
  match decode c.word with
  | .ok i => exec i s
  | .error _ => .next (raiseError .illegalCmd s)

/-- One host input, already taken from the queue. A poll that reads BUSY = 1 stays at the head (30_encoding.md R78). -/
def deliver (i : HostInput) (s : State) : State :=
  match i with
  | .reset => resetBlock s
  | .read off width => hostRead off width s
  | .write off width v => hostWrite off width v s
  | .poll =>
    let s' := respond (.data (readReg .status s)) s
    if s.status.busy then { s' with inputs := .poll :: s.inputs } else s'

/-- The next host input, if there is one; an idle block keeps all its state (60_exceptions.md R225). -/
def hostTurn (s : State) : State :=
  match s.inputs with
  | [] => s
  | i :: rest => deliver i { s with inputs := rest }

/-- One step of the total order (20_memory.md R61, log entry 3). -/
def turn (s : State) : Host.Outcome State Fault Refusal :=
  match s.latch with
  | none => .next (hostTurn s)
  | some c => if s.delay = 0 then engineTurn c s else .next (hostTurn { s with delay := s.delay - 1 })

/-- A command accepted and about to run: the latch holds it with the ARG registers, STATUS is as after acceptance, and the
engine moves next (log entry 17). -/
def placeCommand (nbits w : Nat) (s : State) : State := latchCommand (u64 (tableBits nbits w)) 0 s

end Sys2Proof.Machine
end

