-- ==== Sys2Proof/Machine/Bus.lean ====
section
/-! DEFINITION. The platform's side of the window: bus addresses, accesses carried as bytes (20_memory.md R50, R55), and the
host-side assembly (30_encoding.md R78, R79). -/

namespace Sys2Proof.Machine

/-- BASE: a multiple of 128, so the low seven bits are 0 (20_memory.md R50). -/
def base : Word := Config.baseBlock ++ 0#7

/-- The bus address `BASE + off`. -/
def busAddress (off : Offset) : Word := base + off.setWidth 64

/-- The offset of a bus address in the window; no other address belongs to the block (20_memory.md R50). -/
def windowOffset (addr : Word) : Option Offset :=
  if base.toNat ≤ addr.toNat ∧ addr.toNat < base.toNat + 128 then some (BitVec.ofNat 7 (addr.toNat - base.toNat)) else none

/-- A read of `width` bytes at a bus address, as the block sees it; none if it does not reach the block. -/
def busRead (addr : Word) (width : Nat) : Option HostInput := (windowOffset addr).map (.read · width)

/-- A write of bytes at a bus address, lowest address first; its width is how many bytes it carries (20_memory.md R55). -/
def busWrite (addr : Word) (bytes : List Byte) : Option HostInput :=
  (windowOffset addr).map (.write · bytes.length (wordOfBytes bytes))

/-- The bytes a read's answer carries, lowest address first; a bus error and an acknowledgement carry none (20_memory.md R53, R55). -/
def responseBytes : Response → List Byte
  | .data v => bytesOfWord v
  | .ack => []
  | .busError _ => []

/-- `u64(imm)` of an integer immediate: a negative one is written as its two's-complement bits (30_encoding.md R78). -/
def immediate (imm : Int) : Word := BitVec.ofInt 64 imm

/-- The bus access of a statement (30_encoding.md R78). `poll` is the model's repeated STATUS read. -/
def stmtInput : HostStmt → HostInput
  | .wr r imm => .write (regOffset r) 8 (immediate imm)
  | .rd r => .read (regOffset r) 8
  | .cmd i => .write (regOffset .cmd) 8 (encode i)
  | .poll => .poll

/-- The expansions of the pseudo-instructions (30_encoding.md R79). -/
def expand : Pseudo → List HostStmt
  | .configure n r s => [.wr .arg0 n, .wr .arg1 r, .wr .arg2 s, .cmd .configure, .poll]
  | .shuffle x => [.wr .arg0 x, .cmd .shuffle, .poll, .rd .result]
  | .unshuffle y => [.wr .arg0 y, .cmd .unshuffle, .poll, .rd .result]
  | .encrypt m => [.wr .arg0 m, .cmd .encrypt, .poll, .rd .result]
  | .decrypt m => [.wr .arg0 m, .cmd .decrypt, .poll, .rd .result]
  | .roundf j x => [.wr .arg0 x, .wr .arg1 j, .cmd .roundf, .poll, .rd .result]
  | .sboxrd i => [.wr .arg0 i, .cmd .sboxrd, .poll, .rd .result]

/-- A host program: what its pseudo-instructions do on the bus, in order. -/
def programInputs (p : List Pseudo) : List HostInput := (p.flatMap expand).map stmtInput

end Sys2Proof.Machine
end

