-- ==== Sys2Proof/Safety.lean ====
section
/-! DEFINITION. What a reachable state satisfies, in the terms the statements use: the configuration invariant of 10_state.md R21
with the round clamp, and the STATUS relations of 10_state.md R26, R33 and 60_exceptions.md R201. -/

namespace Sys2Proof.Machine

/-- Case (i) of 10_state.md R21. -/
abbrev Cfg.Empty (c : Cfg) : Prop := c.rangeLen.toNat = 0 ∧ c.a.toNat = 0 ∧ c.b.toNat = 0

/-- Case (ii) of 10_state.md R21. -/
abbrev Cfg.Ranged (c : Cfg) : Prop :=
  1 ≤ c.rangeLen.toNat ∧ 1 ≤ c.a.toNat ∧ c.a.toNat ≤ c.b.toNat ∧ c.rangeLen.toNat < c.a.toNat * c.b.toNat ∧
    c.a.toNat * c.b.toNat < 2 ^ 64 ∧ c.b.toNat ≤ 2 ^ 32 + 3

/-- The configurations the block can hold (10_state.md R20, R21): one of the two cases, and a stored round count of at most 64. -/
abbrev Cfg.Legal (c : Cfg) : Prop := (c.Empty ∨ c.Ranged) ∧ c.rounds.toInt ≤ 64

/-- STATUS beside the latch: BUSY is up exactly while the latch holds a command (10_state.md R33); BUSY and DONE never hold
together (R26); ERR is up exactly with an error code, implies ERR_STICKY, and stands only after a completion
(60_exceptions.md R201). -/
abbrev State.StatusLegal (s : State) : Prop :=
  s.status.busy = s.latch.isSome ∧ ¬(s.status.busy = true ∧ s.status.done = true) ∧
    (s.status.err = true ↔ s.status.errcode ≠ ErrorCode.none) ∧
    (s.status.err = true → s.status.errSticky = true ∧ s.status.done = true)

/-- The invariant of the block. -/
abbrev State.Inv (s : State) : Prop := s.cfg.Legal ∧ s.StatusLegal

/-- An outcome is safe when the machine goes on: no fault and no refusal. -/
def Goes (o : Host.Outcome State Fault Refusal) : Prop := ∃ t, o = .next t

end Sys2Proof.Machine
end

