-- ==== Sys2Proof/Certificates/Slice0/Obligations.lean ====
section
/-! DEFINITION. The statements for the provers, and before them the few words they are written in, which restate the spec's own
tables and sentences apart from the model's functions. -/

namespace Sys2Proof.Spec

open Sys2Proof.Machine

/-- A command that completes without an error writes this to STATUS and empties the latch (60_exceptions.md R201, 10_state.md R33). -/
def succeeded (s : State) : State :=
  { s with
    latch := none
    status :=
      { busy := false, done := true, err := false, errSticky := s.status.errSticky, overrun := s.status.overrun
        errcode := .none } }

/-- `raise Error(e)` writes exactly this (60_exceptions.md R201). -/
def failed (e : ErrorCode) (s : State) : State :=
  { s with
    latch := none
    status :=
      { busy := false, done := true, err := true, errSticky := true, overrun := s.status.overrun, errcode := e } }

/-- The next event of the total order is a host input, not the engine step (log entry 3). -/
def hostMovesNext (s : State) : Prop := s.latch = none ∨ s.delay ≠ 0

/-- The head input is taken from the queue; while a command waits, one step of its latency has passed (log entry 3). -/
def taken (s : State) (rest : List HostInput) : State :=
  { s with inputs := rest, delay := if s.latch = none then s.delay else s.delay - 1 }

/-- The block gives an answer on the bus (log entry 8). -/
def answered (r : Response) (s : State) : State := { s with responses := r :: s.responses }

/-- The codes of 60_exceptions.md R200. -/
def errorNumber : ErrorCode → Nat
  | .none => 0
  | .illegalCmd => 1
  | .indexRange => 2
  | .domainRange => 3
  | .roundRange => 4
  | .sboxIndex => 5
  | .cfgOverflow => 6
  | .walkLimit => 7

/-- STATUS as one number, by the bit places of 10_state.md R26. -/
def statusNumber (t : Status) : Nat :=
  t.busy.toNat * 2 ^ 0 + t.done.toNat * 2 ^ 1 + t.err.toNat * 2 ^ 2 + t.errSticky.toNat * 2 ^ 3 + t.overrun.toNat * 2 ^ 4
    + errorNumber t.errcode * 2 ^ 8

/-- The table of `HostRead` by offset (20_memory.md R51). -/
def readTable (s : State) : List (Offset × Word) :=
  [(0x00, 0), (0x08, BitVec.ofNat 64 (statusNumber s.status)), (0x10, s.arg0), (0x18, s.arg1), (0x20, s.arg2),
    (0x28, s.result), (0x30, s.cfg.rangeLen), (0x38, s.cfg.rounds), (0x40, s.cfg.seed), (0x48, s.cfg.a), (0x50, s.cfg.b),
    (0x58, s.iterCount)]

/-- The opcode map of 30_encoding.md R72. -/
def opcodeNumber : Instr → Nat
  | .configure => 1
  | .shuffle => 2
  | .unshuffle => 3
  | .encrypt => 4
  | .decrypt => 5
  | .roundf => 6
  | .sboxrd => 7

/-- An access is legal only so (20_memory.md R53). -/
def legalAccess (off : Offset) (width : Nat) : Prop := width = 8 ∧ off.toNat % 8 = 0 ∧ off.toNat ≤ 0x58

/-- The starting modulus `a` (40_configure.md R103, R104), over the library's exact integer square root. -/
def startA (n : Nat) : Nat :=
  match n with
  | 0 => 0
  | 1 => 1
  | 2 => 1
  | 3 => 2
  | 4 => 2
  | 5 => 2
  | 6 => 2
  | 7 => 3
  | 8 => 3
  | n => Nat.sqrt n - 2

/-- The starting modulus `b` (40_configure.md R103, R104). -/
def startB (n : Nat) : Nat :=
  match n with
  | 0 => 0
  | 1 => 1
  | 2 => 2
  | 3 => 2
  | 4 => 3
  | 5 => 3
  | 6 => 3
  | 7 => 3
  | 8 => 3
  | n => Nat.sqrt n + 3

/-- `a` and `b` are the moduli after the post-adjustment (40_configure.md R105): nothing is done for `n = 0`; else `b` is the first
value from its start for which the exact product passes `n`. -/
def finalModuli (n a b : Nat) : Prop :=
  (n = 0 ∧ a = startA 0 ∧ b = startB 0) ∨
    (n ≠ 0 ∧ a = startA n ∧ startB n ≤ b ∧ n < a * b ∧ ∀ b', startB n ≤ b' → b' < b → a * b' ≤ n)

/-- The pseudocode of `F(j, x)` (41_datapath.md R121), line by line. -/
def roundFunction (sbox : Sbox) (seed : Word) (j : Nat) (x : Word) : Word :=
  let rr := x ^^^ (seed <<< j) ^^^ (seed >>> (64 - j))
  let s (n : Nat) : Word :=
    (sbox.get ⟨((rr >>> (8 * n)) ^^^ seed ^^^ BitVec.ofNat 64 j).toNat % 256, Nat.mod_lt _ (Nat.zero_lt_succ 255)⟩).setWidth 64
  let r0 := s 0 ||| (s 1 <<< 8)
  let r1 := (s 2 <<< 16) ||| (s 3 <<< 24)
  let r2 := s 4 ||| (s 5 <<< 8)
  let r3 := (s 6 <<< 16) ||| (s 7 <<< 24)
  r0 ^^^ r1 ^^^ (r2 <<< 23) ^^^ (r3 <<< 33)

/-- `M_j` (41_datapath.md R128). -/
def roundModulus (c : Cfg) (j : Nat) : Nat := if j % 2 = 1 then c.a.toNat else c.b.toNat

/-- `SubMod(r, t, M)` on numbers, in the source's words (41_datapath.md R133). -/
def subModNumber (r t m : Nat) : Nat :=
  if r < t then
    if m - (t - r) % m = m then 0 else m - (t - r) % m
  else (r - t) % m

/-- The number of rounds that run (41_datapath.md R137: no iteration when `R ≤ 0`). -/
def roundsRun (c : Cfg) : Nat := c.rounds.toInt.toNat

/-- The stored round count is odd (00_scope.md R13). -/
def roundsOdd (c : Cfg) : Prop := c.rounds.toInt % 2 = 1

/-- `v` is `Encrypt(m)` (41_datapath.md R137): exact halves before round 1 and after each round. -/
def isEncrypt (sbox : Sbox) (c : Cfg) (m : Nat) (v : Word) : Prop :=
  ∃ rr ll : Nat → Nat,
    rr 0 = m / c.a.toNat ∧ ll 0 = m % c.a.toNat ∧
      (∀ j, 1 ≤ j → j ≤ roundsRun c →
        rr j = (ll (j - 1) + (roundFunction sbox c.seed j (BitVec.ofNat 64 (rr (j - 1)))).toNat) % roundModulus c j ∧
          ll j = rr (j - 1)) ∧
      (roundsOdd c → v.toNat = c.a.toNat * ll (roundsRun c) + rr (roundsRun c)) ∧
      (¬roundsOdd c → v.toNat = c.a.toNat * rr (roundsRun c) + ll (roundsRun c))

/-- `v` is `Decrypt(m)` (41_datapath.md R142): exact halves after the first un-swap and after each round, from `R` down to 1. -/
def isDecrypt (sbox : Sbox) (c : Cfg) (m : Nat) (v : Word) : Prop :=
  ∃ rr ll : Nat → Nat,
    (roundsOdd c → ll (roundsRun c) = m / c.a.toNat ∧ rr (roundsRun c) = m % c.a.toNat) ∧
      (¬roundsOdd c → rr (roundsRun c) = m / c.a.toNat ∧ ll (roundsRun c) = m % c.a.toNat) ∧
      (∀ j, 1 ≤ j → j ≤ roundsRun c →
        rr (j - 1) = ll j ∧
          ll (j - 1) =
            subModNumber (rr j) (roundFunction sbox c.seed j (BitVec.ofNat 64 (ll j))).toNat (roundModulus c j)) ∧
      v.toNat = c.a.toNat * rr 0 + ll 0

/-- The forward or the inverse core, as the walk of the command uses it (42_commands.md R161, R164). -/
def coreOf (i : Instr) (s : State) : Word → Word :=
  if i = .unshuffle then decryptCore s.sbox s.cfg else encryptCore s.sbox s.cfg

/-- The walk from `x` lands on its `k`-th application and not before (42_commands.md R160). -/
def landsAt (fn : Word → Word) (n : Word) (x : Word) (k : Nat) : Prop :=
  1 ≤ k ∧ (fn^[k] x).toNat < n.toNat ∧ ∀ i, 1 ≤ i → i < k → n.toNat ≤ (fn^[i] x).toNat

/-- ARG0, ARG1, ARG2 by number. -/
def argReg (s : State) (k : Fin 3) : Word := if k = 0 then s.arg0 else if k = 1 then s.arg1 else s.arg2

/-- The state with ARG number `k` holding `v` and nothing else changed. -/
def withArg (s : State) (k : Fin 3) (v : Word) : State :=
  if k = 0 then { s with arg0 := v } else if k = 1 then { s with arg1 := v } else { s with arg2 := v }

/-- The offset of ARG number `k` (10_state.md R24). -/
def argOffset (k : Fin 3) : Offset := BitVec.ofNat 7 (0x10 + 8 * k.val)

end Sys2Proof.Spec

open Sys2Proof Sys2Proof.Machine Sys2Proof.Spec

/-! ## Reset and the invariant -/

/-- 70_reset_and_hazards.md R230: every value of the reset table, with what every register of the window then reads (CMD reads 0 too),
both in the reset state and after a reset input is taken; the ROM is unchanged. The fields `delay`, `draws`, `inputs` and `responses` are the model's own and nothing is said of them. -/
def Obligations.ResetLeavesEveryRegisterZero : Prop :=
  (State.reset.cfg = ⟨0, 0, 0, 0, 0⟩ ∧ State.reset.arg0 = 0 ∧ State.reset.arg1 = 0 ∧ State.reset.arg2 = 0 ∧
      State.reset.result = 0 ∧ State.reset.iterCount = 0 ∧ State.reset.status = ⟨false, false, false, false, false, .none⟩ ∧
      State.reset.latch = none ∧ State.reset.sbox = Config.sbox ∧ ∀ r : RegName, readReg r State.reset = 0) ∧
    ∀ (s : State) (rest : List HostInput), hostMovesNext s → s.inputs = .reset :: rest →
      ∃ t, step s = .next t ∧ t.cfg = ⟨0, 0, 0, 0, 0⟩ ∧ t.arg0 = 0 ∧ t.arg1 = 0 ∧ t.arg2 = 0 ∧ t.result = 0 ∧
        t.iterCount = 0 ∧ t.status = ⟨false, false, false, false, false, .none⟩ ∧ t.latch = none ∧ t.sbox = s.sbox ∧
        ∀ r : RegName, readReg r t = 0

/-- The reset state meets the invariant: case (i) of 10_state.md R21, and STATUS as 10_state.md R26 and R33 relate it to the latch.
The invariant is the spec's own inference ("Configuration invariant"), marked derived there. -/
def Obligations.ResetStateMeetsTheInvariant : Prop := State.reset.Inv

/-- Every step keeps the invariant, from every state that meets it: the configuration stays one of the two cases of 10_state.md R21
with at most 64 stored rounds, BUSY stays the latch's fullness, BUSY and DONE never meet, ERR stays tied to its code. The
configuration part is the spec's own inference, marked derived there. -/
def Obligations.EveryStepKeepsTheInvariant : Prop :=
  ∀ s t : State, s.Inv → step s = .next t → t.Inv

/-! ## Encoding -/

/-- 30_encoding.md R72: the whole word must equal the opcode value; every word has at most one meaning. -/
def Obligations.WordDecodesToCommandExactlyByOpcodeMap : Prop :=
  ∀ (w : Word) (i : Instr), decode w = .ok i ↔ w.toNat = opcodeNumber i

/-- The printed words of the seven commands decode to them, and the spec's five illegal words to nothing. -/
def Obligations.PrintedCommandWordsDecode : Prop :=
  decode 0x0000000000000001 = .ok .configure ∧ decode 0x0000000000000002 = .ok .shuffle ∧
    decode 0x0000000000000003 = .ok .unshuffle ∧ decode 0x0000000000000004 = .ok .encrypt ∧
    decode 0x0000000000000005 = .ok .decrypt ∧ decode 0x0000000000000006 = .ok .roundf ∧
    decode 0x0000000000000007 = .ok .sboxrd ∧ decode 0x0000000000000000 = .error .unassignedOpcode ∧
    decode 0x0000000000000008 = .error .unassignedOpcode ∧ decode 0x00000000000000FF = .error .unassignedOpcode ∧
    decode 0x0000000000000102 = .error .reservedBits ∧ decode 0x8000000000000002 = .error .reservedBits

/-- Decode and encode agree in both directions, over all words and over the bytes an interconnect carries: an encoded command
decodes to it, a word that decodes is the encoding of what it decodes to, the well-formed words are exactly those, the byte at
BASE + off + k is bits 8k+7..8k, and eight bytes decode as the word they carry. -/
def Obligations.DecodeAndEncodeAgreeOnWordsAndBytes : Prop :=
  (∀ i : Instr, i.wellFormed = true → decode (encode i) = .ok i ∧ decodeBytes (bytesOfWord (encode i)) = .ok i) ∧
    (∀ (w : Word) (i : Instr), decode w = .ok i → encode i = w) ∧
    (∀ w : Word, commandWordWellFormed w = true ↔ ∃ i, decode w = .ok i) ∧
    (∀ w : Word, wordOfBytes (bytesOfWord w) = w ∧ decodeBytes (bytesOfWord w) = decode w ∧
      ∀ k, k < 8 → (bytesOfWord w)[k]? = some (BitVec.ofNat 8 (w.toNat / 2 ^ (8 * k)))) ∧
    ∀ bs : List Byte, bs.length ≠ 8 → ∀ i, decodeBytes bs ≠ .ok i

/-! ## The step -/

/-- When the latched word decodes to a command and its latency has run out, the step is that command's meaning. -/
def Obligations.StepRunsTheDecodedCommand : Prop :=
  ∀ (s : State) (c : Latched) (i : Instr), s.latch = some c → s.delay = 0 → decode c.word = .ok i → i.wellFormed = true →
    step s = exec i s

/-- 60_exceptions.md R202: any word that is not one of the seven completes with ILLEGAL_CMD and changes nothing else; no operand is
read or checked. -/
def Obligations.IllegalWordCompletesWithIllegalCmd : Prop :=
  ∀ (s : State) (c : Latched), s.latch = some c → s.delay = 0 →
    (c.word.toNat / 2 ^ 8 ≠ 0 ∨ c.word.toNat % 2 ^ 8 = 0x00 ∨ 0x08 ≤ c.word.toNat % 2 ^ 8) →
    step s = .next (failed .illegalCmd s)

/-- No event stops the block: every state has a next state (60_exceptions.md, "does not stop the block"; 10_state.md, "Every engine
step ends", which the spec marks as its inference). -/
def Obligations.EveryStepAnswersNext : Prop := ∀ s : State, ∃ t, step s = .next t

/-- 60_exceptions.md R225: with BUSY = 0 and nothing on the bus, the block keeps all its state. -/
def Obligations.IdleBlockKeepsAllItsState : Prop :=
  ∀ s : State, s.StatusLegal → s.status.busy = false → s.inputs = [] → step s = .next s

/-- Whatever the latency and whatever the hosts do meanwhile short of reset, the latched command completes, and it completes as if
it had run at once on the operands latched with it: same configuration, RESULT, ITER_COUNT and error. The steps counted are the
model's rendering of LATENCY (log entry 3). -/
def Obligations.CompletionIgnoresLatencyAndHostTraffic : Prop :=
  ∀ (s : State) (c : Latched), s.latch = some c → s.status.busy = true → HostInput.reset ∉ s.inputs →
    ∃ t u : State, Host.Core.run Sys2Proof.core (s.delay + 1) s = .next t ∧ step { s with delay := 0 } = .next u ∧
      t.latch = none ∧ t.status.busy = false ∧ t.status.done = true ∧ t.cfg = u.cfg ∧ t.result = u.result ∧
      t.iterCount = u.iterCount ∧ t.status.err = u.status.err ∧ t.status.errcode = u.status.errcode ∧
      t.status.errSticky = u.status.errSticky ∧ t.sbox = u.sbox

/-! ## Host accesses -/

/-- 20_memory.md R51: every legal read returns the register's value and changes no state of the block. STATUS is read by the bit
places of 10_state.md R26 and the codes of 60_exceptions.md R200. -/
def Obligations.HostReadReturnsRegisterAndChangesNothing : Prop :=
  ∀ (s : State) (rest : List HostInput) (off : Offset) (v : Word), hostMovesNext s → (off, v) ∈ readTable s →
    s.inputs = .read off 8 :: rest → step s = .next (answered (.data v) (taken s rest))

/-- ARG0 to ARG2 are plain storage (10_state.md section 3): a host write stores all 64 bits, a host read returns the stored value, and
nothing but a host write of that register (or reset) changes it. That the write is acknowledged is the model's choice (log entry 8).
-/
def Obligations.ArgRegistersArePlainStorage : Prop :=
  (∀ (s : State) (rest : List HostInput) (k : Fin 3) (v : Word), hostMovesNext s →
      s.inputs = .write (argOffset k) 8 v :: rest → step s = .next (withArg (answered .ack (taken s rest)) k v)) ∧
    (∀ (s : State) (rest : List HostInput) (k : Fin 3), hostMovesNext s → s.inputs = .read (argOffset k) 8 :: rest →
      step s = .next (answered (.data (argReg s k)) (taken s rest))) ∧
    ∀ (s t : State) (k : Fin 3), step s = .next t → argReg t k ≠ argReg s k →
      hostMovesNext s ∧ ∃ rest, s.inputs = .reset :: rest ∨ s.inputs = .write (argOffset k) 8 (argReg t k) :: rest

/-- Acceptance, the first half of 10_state.md section 5: a CMD write while BUSY = 0 latches the word with the ARG registers and sets
STATUS, in one step. When the engine step comes is free (log entry 3); that the write is acknowledged is the model's choice (log
entry 8). -/
def Obligations.CmdWriteWhenIdleLatchesTheCommand : Prop :=
  ∀ (s : State) (rest : List HostInput) (v : Word), hostMovesNext s → s.inputs = .write 0x00 8 v :: rest →
    s.status.busy = false →
    ∃ d, step s = .next
      { answered .ack (taken s rest) with
        latch := some { word := v, arg0 := s.arg0, arg1 := s.arg1, arg2 := s.arg2 }
        status :=
          { busy := true, done := false, err := false, errSticky := s.status.errSticky, overrun := s.status.overrun
            errcode := .none }
        delay := d
        draws := s.draws + 1 }

/-- A CMD write while BUSY = 1 is dropped and sets OVERRUN; the command in flight and everything else is unaffected; once set, OVERRUN
stays set until reset (70_reset_and_hazards.md section 3, command overrun). That the dropped write is acknowledged is the model's
choice (log entry 8). -/
def Obligations.CmdWriteWhileBusyOnlySetsOverrun : Prop :=
  (∀ (s : State) (rest : List HostInput) (v : Word), hostMovesNext s → s.inputs = .write 0x00 8 v :: rest →
      s.status.busy = true →
      step s = .next { answered .ack (taken s rest) with status := { s.status with overrun := true } }) ∧
    ∀ s t : State, s.status.overrun = true → step s = .next t →
      t.status.overrun = true ∨ (hostMovesNext s ∧ ∃ rest, s.inputs = .reset :: rest)

/-- A legal write to STATUS, RESULT, RANGE_LEN, ROUNDS, SEED, A, B or ITER_COUNT changes nothing (20_memory.md section 1, writes to
read-only registers). That the ignored write is acknowledged is the model's choice (log entry 8). -/
def Obligations.WritesToReadOnlyRegistersAreIgnored : Prop :=
  ∀ (s : State) (rest : List HostInput) (off : Offset) (v : Word), hostMovesNext s →
    off ∈ ([0x08, 0x28, 0x30, 0x38, 0x40, 0x48, 0x50, 0x58] : List Offset) →
    s.inputs = .write off 8 v :: rest → step s = .next (answered .ack (taken s rest))

/-- Any other width, a misaligned offset or a reserved offset is a bus error: no data and no state change (20_memory.md section 1, legal
accesses). That the model goes on after it, and answers it in `responses`, is log entry 7; that an access belongs to the window by its
first address, however far it reaches, is log entry 6. -/
def Obligations.IllegalAccessIsABusErrorAndChangesNothing : Prop :=
  ∀ (s : State) (rest : List HostInput) (off : Offset) (width : Nat) (v : Word), hostMovesNext s → ¬legalAccess off width →
    (s.inputs = .read off width :: rest ∨ s.inputs = .write off width v :: rest) →
    step s = .next (answered (.busError off) (taken s rest))

/-- The `poll` statement of 30_encoding.md, as the model renders it (log entry 19): each STATUS read is answered, and the poll is over
exactly when it read BUSY = 0. -/
def Obligations.PollReadsStatusUntilNotBusy : Prop :=
  ∀ (s : State) (rest : List HostInput), hostMovesNext s → s.inputs = .poll :: rest →
    step s = .next
      (answered (.data (BitVec.ofNat 64 (statusNumber s.status)))
        (taken s (if s.status.busy = true then .poll :: rest else rest)))

/-- 20_memory.md section 1: the window is the 128 bus addresses from BASE, a multiple of 128, and no address outside it reaches the
block. The 64-bit width of a bus address is log entry 5; that an access belongs to the window by its first address, so that one at
offsets 0x79 to 0x7F crosses the window's edge and is still an access of the window, is log entry 6. -/
def Obligations.WindowIsExactly128BytesAtBase : Prop :=
  base.toNat % 128 = 0 ∧ (∀ off : Offset, (busAddress off).toNat = base.toNat + off.toNat ∧ windowOffset (busAddress off) = some off) ∧
    (∀ addr : Word, (addr.toNat < base.toNat ∨ base.toNat + 128 ≤ addr.toNat) ↔ windowOffset addr = none) ∧
    ∀ (off : Offset) (v : Word), busRead (busAddress off) 8 = some (.read off 8) ∧
      busWrite (busAddress off) (bytesOfWord v) = some (.write off 8 v)

/-! ## CONFIGURE -/

/-- 40_configure.md R100 with R101 (round clamp), R102 to R105 (moduli) and R107 (overflow): CONFIGURE succeeds exactly below
0xFFFFFFFFFFFFFFF7, replacing the five fields together and nothing else, and fails from there on, changing nothing but STATUS. -/
def Obligations.ConfigureBuildsTheSpecifiedConfiguration : Prop :=
  decode 0x0000000000000001 = .ok .configure ∧
    ∀ (s : State) (c : Latched), s.latch = some c →
      (c.arg0.toNat < 0xFFFFFFFFFFFFFFF7 →
        ∃ a b : Nat, finalModuli c.arg0.toNat a b ∧ a * b < 2 ^ 64 ∧
          exec .configure s = .next (succeeded
            { s with
              cfg :=
                { rangeLen := c.arg0, rounds := if c.arg1.toInt > 64 then 64 else c.arg1, seed := c.arg2
                  a := BitVec.ofNat 64 a, b := BitVec.ofNat 64 b } })) ∧
      (0xFFFFFFFFFFFFFFF7 ≤ c.arg0.toNat → exec .configure s = .next (failed .cfgOverflow s))

/-- 60_exceptions.md R207 and 40_configure.md R107: CFG_OVERFLOW exactly for the nine largest operands, whatever ARG1 and ARG2 hold,
with nothing written to `cfg`; the exact product reaches 2^64 for exactly those, all with `a = 4294967293`, and the operand below
them gives the printed moduli and is accepted. -/
def Obligations.CfgOverflowExactlyForNineOperands : Prop :=
  (∀ (s : State) (c : Latched), s.latch = some c →
    ((∃ t, exec .configure s = .next t ∧ t.status.errcode = .cfgOverflow) ↔
        0xFFFFFFFFFFFFFFF7 ≤ c.arg0.toNat ∧ c.arg0.toNat ≤ 0xFFFFFFFFFFFFFFFF) ∧
      (2 ^ 64 ≤ (moduli c.arg0.toNat).1 * (moduli c.arg0.toNat).2 → exec .configure s = .next (failed .cfgOverflow s)) ∧
      (c.arg0 = 0xFFFFFFFFFFFFFFF6 → ∃ t, exec .configure s = .next t ∧ t.status.err = false ∧
        t.cfg.a.toNat = 4294967293 ∧ t.cfg.b.toNat = 4294967299)) ∧
    ∀ n, n < 2 ^ 64 →
      (2 ^ 64 ≤ (moduli n).1 * (moduli n).2 ↔ 0xFFFFFFFFFFFFFFF7 ≤ n) ∧ (0xFFFFFFFFFFFFFFF7 ≤ n → (moduli n).1 = 4294967293)

/-- The post-adjustment ends with `a * b > n`, adds at most 10 to `b`, exactly 10 at `n = 15`, and at most 2 once the square root is 11
or more (40_configure.md section 3, the spec's own inference, marked derived there). The model runs the loop with fuel for ten
increments (log entry 13), so the bound of 10 alone would hold of any loop; that the product passes `n` says that the loop has ended. -/
def Obligations.PostAdjustmentAddsAtMostTen : Prop :=
  (∀ n, n < 2 ^ 64 → startB n ≤ (moduli n).2 ∧ (moduli n).2 ≤ startB n + 10) ∧
    (∀ n, n < 2 ^ 64 → n ≠ 0 → n < (moduli n).1 * (moduli n).2) ∧ (moduli 15).2 = startB 15 + 10 ∧
    ∀ n, n < 2 ^ 64 → 11 ≤ Nat.sqrt n → (moduli n).2 ≤ startB n + 2

/-- The final moduli for small ranges (40_configure.md section 4's table, the spec's own inference, marked derived there). -/
def Obligations.SmallRangeFinalModuli : Prop :=
  (List.range 18).map moduli =
    [(0, 0), (1, 2), (1, 3), (2, 2), (2, 3), (2, 3), (2, 4), (3, 3), (3, 3), (1, 10), (1, 11), (1, 12), (1, 13), (1, 14),
      (1, 15), (1, 16), (2, 9), (2, 9)]

/-- The configuration CONFIGURE writes, and whether it writes one, is a function of the three operands alone
(40_configure.md section 4, "Determinism", which the spec marks derived). -/
def Obligations.ConfigureDependsOnOperandsAlone : Prop :=
  ∀ (s₁ s₂ t₁ t₂ : State) (c₁ c₂ : Latched), s₁.latch = some c₁ → s₂.latch = some c₂ → c₁.arg0 = c₂.arg0 → c₁.arg1 = c₂.arg1 →
    c₁.arg2 = c₂.arg2 → exec .configure s₁ = .next t₁ → exec .configure s₂ = .next t₂ →
    t₁.status.err = t₂.status.err ∧ t₁.status.errcode = t₂.status.errcode ∧ (t₁.status.err = false → t₁.cfg = t₂.cfg)

/-! ## The operand checks -/

/-- 60_exceptions.md R203 to R206: each command's operand check raises its error exactly so, on the whole 64 bits, and a raise changes
nothing but STATUS and the latch. -/
def Obligations.OperandChecksRaiseTheirErrors : Prop :=
  ∀ (s : State) (c : Latched), s.latch = some c →
    (s.cfg.rangeLen.toNat ≤ c.arg0.toNat →
      exec .shuffle s = .next (failed .indexRange s) ∧ exec .unshuffle s = .next (failed .indexRange s)) ∧
    (s.cfg.rangeLen = 0 →
      exec .shuffle s = .next (failed .indexRange s) ∧ exec .unshuffle s = .next (failed .indexRange s)) ∧
    (s.cfg.a.toNat * s.cfg.b.toNat ≤ c.arg0.toNat →
      exec .encrypt s = .next (failed .domainRange s) ∧ exec .decrypt s = .next (failed .domainRange s)) ∧
    (c.arg1.toNat < 1 ∨ 64 < c.arg1.toNat → exec .roundf s = .next (failed .roundRange s)) ∧
    (255 < c.arg0.toNat → exec .sboxrd s = .next (failed .sboxIndex s))

/-! ## The diagnostic commands and the core -/

/-- 42_commands.md R180. -/
def Obligations.SboxrdReadsTheRom : Prop :=
  decode 0x0000000000000007 = .ok .sboxrd ∧
    ∀ (s : State) (c : Latched), s.latch = some c →
      (∀ i : Fin 256, c.arg0.toNat = i.val →
        exec .sboxrd s = .next (succeeded { s with result := (s.sbox.get i).setWidth 64 }) ∧
          ((s.sbox.get i).setWidth 64).toNat < 2 ^ 8) ∧
      (255 < c.arg0.toNat → exec .sboxrd s = .next (failed .sboxIndex s))

/-- 42_commands.md R175 with the pseudocode of 41_datapath.md R121. The clauses on `j = 64` and on bits 48 to 39 are R175's corner
cases. -/
def Obligations.RoundfComputesTheRoundFunction : Prop :=
  decode 0x0000000000000006 = .ok .roundf ∧
    ∀ (s : State) (c : Latched), s.latch = some c →
      (1 ≤ c.arg1.toNat → c.arg1.toNat ≤ 64 →
        exec .roundf s = .next (succeeded { s with result := roundFunction s.sbox s.cfg.seed c.arg1.toNat c.arg0 })) ∧
      (c.arg1.toNat < 1 ∨ 64 < c.arg1.toNat → exec .roundf s = .next (failed .roundRange s)) ∧
      (c.arg1.toNat = 64 → (s.cfg.seed <<< c.arg1.toNat) ^^^ (s.cfg.seed >>> (64 - c.arg1.toNat)) = s.cfg.seed) ∧
      (roundFunction s.sbox s.cfg.seed c.arg1.toNat c.arg0).extractLsb' 39 10 = 0

/-- The bits of F one by one, with the key mix as a rotation and the lanes as bytes (41_datapath.md section 2, its tables of lanes and
result bits, the spec's own inference, marked derived there). -/
def Obligations.RoundFunctionBitTable : Prop :=
  ∀ (t : Sbox) (seed x : Word) (j : Nat), 1 ≤ j → j ≤ 64 →
    let rr : Word := x ^^^ seed.rotateLeft (j % 64)
    let s (n : Nat) : Byte := t.get (rr.extractLsb' (8 * n) 8 ^^^ seed.extractLsb' 0 8 ^^^ BitVec.ofNat 8 j).toFin
    let f := roundF t seed j x
    f.extractLsb' 0 8 = s 0 ∧ f.extractLsb' 8 8 = s 1 ∧ f.extractLsb' 16 7 = (s 2).extractLsb' 0 7 ∧
      f.getLsbD 23 = ((s 2).getLsbD 7 ^^ (s 4).getLsbD 0) ∧
      f.extractLsb' 24 7 = (s 3).extractLsb' 0 7 ^^^ (s 4).extractLsb' 1 7 ∧
      f.getLsbD 31 = ((s 3).getLsbD 7 ^^ (s 5).getLsbD 0) ∧ f.extractLsb' 32 7 = (s 5).extractLsb' 1 7 ∧
      f.extractLsb' 39 10 = 0 ∧ f.extractLsb' 49 8 = s 6 ∧ f.extractLsb' 57 7 = (s 7).extractLsb' 0 7

/-- The bound on F, and with it that a round's modular addition never wraps, lands below the modulus, and is undone by the modular
subtraction (41_datapath.md sections 2 and 3, the spec's own inferences, marked derived there). -/
def Obligations.RoundAdditionNeverWrapsAndIsUndone : Prop :=
  ∀ (t : Sbox) (seed x l m : Word) (j : Nat), 1 ≤ j → j ≤ 64 → l.toNat < m.toNat → m.toNat ≤ 2 ^ 32 + 3 →
    (roundF t seed j x).toNat ≤ 0xFFFE007FFFFFFFFF ∧ l.toNat + (roundF t seed j x).toNat < 2 ^ 64 ∧
      (addMod l (roundF t seed j x) m).toNat = (l.toNat + (roundF t seed j x).toNat) % m.toNat ∧
      subMod (addMod l (roundF t seed j x) m) (roundF t seed j x) m = l

/-- SubMod is the mathematical residue of the difference, in every branch (41_datapath.md section 3, the spec's own inference, marked
derived there). -/
def Obligations.SubModIsTheMathematicalResidue : Prop :=
  ∀ r t m : Word, 1 ≤ m.toNat → ((subMod r t m).toNat : Int) = ((r.toNat : Int) - (t.toNat : Int)) % (m.toNat : Int)

/-- 42_commands.md R170 with the pseudocode of 41_datapath.md R137, in every legal configuration: ENCRYPT writes Encrypt of its
operand, computed on exact halves, and nothing else. -/
def Obligations.EncryptFollowsTheRoundRecurrence : Prop :=
  decode 0x0000000000000004 = .ok .encrypt ∧
    ∀ (s : State) (c : Latched), s.latch = some c → s.cfg.Legal →
      (c.arg0.toNat < s.cfg.a.toNat * s.cfg.b.toNat →
        isEncrypt s.sbox s.cfg c.arg0.toNat (encryptCore s.sbox s.cfg c.arg0) ∧
          (s.cfg.rounds = 0 → encryptCore s.sbox s.cfg c.arg0 = c.arg0) ∧
          exec .encrypt s = .next (succeeded { s with result := encryptCore s.sbox s.cfg c.arg0 })) ∧
      (s.cfg.a.toNat * s.cfg.b.toNat ≤ c.arg0.toNat → exec .encrypt s = .next (failed .domainRange s))

/-- 42_commands.md R172 with the pseudocode of 41_datapath.md R142, in every legal configuration. The round trip of R172's corner case
is the statement CoreCommandsAreInverse. -/
def Obligations.DecryptFollowsTheRoundRecurrence : Prop :=
  decode 0x0000000000000005 = .ok .decrypt ∧
    ∀ (s : State) (c : Latched), s.latch = some c → s.cfg.Legal →
      (c.arg0.toNat < s.cfg.a.toNat * s.cfg.b.toNat →
        isDecrypt s.sbox s.cfg c.arg0.toNat (decryptCore s.sbox s.cfg c.arg0) ∧
          exec .decrypt s = .next (succeeded { s with result := decryptCore s.sbox s.cfg c.arg0 })) ∧
      (s.cfg.a.toNat * s.cfg.b.toNat ≤ c.arg0.toNat → exec .decrypt s = .next (failed .domainRange s))

/-- The result of a successful ENCRYPT or DECRYPT is below the domain size, for every stored round count (42_commands.md section 5, the
spec's own inference, marked derived there). -/
def Obligations.CoreResultsStayInTheDomain : Prop :=
  ∀ (s t : State) (c : Latched) (i : Instr), s.latch = some c → s.cfg.Legal → (i = .encrypt ∨ i = .decrypt) →
    exec i s = .next t → t.status.err = false → t.result.toNat < s.cfg.a.toNat * s.cfg.b.toNat

/-- The inverse law of the core: with at least one value and a round count of 0 or more, DECRYPT of what ENCRYPT gave returns the
operand, and the other way round, for every S-box and seed (41_datapath.md section 4, "Inverse law of the core", marked derived
there). -/
def Obligations.CoreCommandsAreInverse : Prop :=
  ∀ (s t u : State) (c d : Latched) (i : Instr), (i = .encrypt ∨ i = .decrypt) → s.latch = some c → s.cfg.Legal →
    1 ≤ s.cfg.rangeLen.toNat → 0 ≤ s.cfg.rounds.toInt → c.arg0.toNat < s.cfg.a.toNat * s.cfg.b.toNat → exec i s = .next t →
    u.cfg = t.cfg → u.sbox = t.sbox → u.latch = some d → d.arg0 = t.result →
    ∃ v, exec (if i = .encrypt then .decrypt else .encrypt) u = .next v ∧ v.status.err = false ∧ v.result = c.arg0

/-- With 0 or a negative even number of stored rounds both core commands return their operand; with a negative odd number both return
`a * (m mod a) + m div a` (41_datapath.md section 4, "Degenerate round counts", marked derived there; the parity of a negative count
is the spec's decision, 92_eei_decisions.md D15). -/
def Obligations.DegenerateRoundCountsOfTheCore : Prop :=
  ∀ (s : State) (c : Latched), s.latch = some c → s.cfg.Legal → c.arg0.toNat < s.cfg.a.toNat * s.cfg.b.toNat →
    s.cfg.rounds.toInt ≤ 0 →
    (s.cfg.rounds.toInt % 2 = 0 →
      exec .encrypt s = .next (succeeded { s with result := c.arg0 }) ∧
        exec .decrypt s = .next (succeeded { s with result := c.arg0 })) ∧
    (s.cfg.rounds.toInt % 2 = 1 →
      exec .encrypt s = .next (succeeded
          { s with result := BitVec.ofNat 64 (s.cfg.a.toNat * (c.arg0.toNat % s.cfg.a.toNat) + c.arg0.toNat / s.cfg.a.toNat) }) ∧
        exec .decrypt s = .next (succeeded
          { s with result := BitVec.ofNat 64 (s.cfg.a.toNat * (c.arg0.toNat % s.cfg.a.toNat) + c.arg0.toNat / s.cfg.a.toNat) }))

/-- For ranges 9 to 15, where `a = 1`, the core is a rotation of `[0, b)` by the sum of the even rounds' F at operand 0
(41_datapath.md section 4, "Degenerate moduli", marked derived there). -/
def Obligations.CoreIsARotationWhenAIsOne : Prop :=
  ∀ (s : State) (c : Latched) (n : Nat), s.latch = some c → 9 ≤ n → n ≤ 15 → s.cfg.rangeLen.toNat = n → s.cfg.a.toNat = 1 →
    s.cfg.b.toNat = n + 1 → s.cfg.rounds.toInt ≤ 64 → c.arg0.toNat < n + 1 →
    ∃ k, k = (((List.range (s.cfg.rounds.toInt.toNat + 1)).filter fun j => 2 ≤ j && j % 2 == 0).map fun j =>
        (roundF s.sbox s.cfg.seed j 0).toNat).sum % (n + 1) ∧
      exec .encrypt s = .next (succeeded { s with result := BitVec.ofNat 64 ((c.arg0.toNat + k) % (n + 1)) }) ∧
      exec .decrypt s = .next (succeeded { s with result := BitVec.ofNat 64 ((c.arg0.toNat + (n + 1) - k) % (n + 1)) })

/-! ## SHUFFLE and UNSHUFFLE -/

/-- The walk of SHUFFLE and UNSHUFFLE (42_commands.md sections 1 to 3), in every configuration and for any function walked: it ends at
the first application that lands in range, if that comes within `a * b` applications, and else with WALK_LIMIT, ITER_COUNT at the limit
and RESULT unchanged. Outside legal configurations it says what the model does and not what the spec says: with `a * b = 0` and
rangeLen above 0 WALK_LIMIT comes after no application (log entry 12), and a count of 2^64 or more is narrowed to 64 bits (log entry
11). EveryStepKeepsTheInvariant says that no run reaches those. -/
def Obligations.WalkEndsAtFirstLandingOrAtTheLimit : Prop :=
  (∀ (fn : Word → Word) (s : State) (m : Word),
    (∀ k, k ≤ s.cfg.a.toNat * s.cfg.b.toNat → landsAt fn s.cfg.rangeLen m k →
      completeWalk (walk fn s.cfg m) s = succeeded { s with result := fn^[k] m, iterCount := BitVec.ofNat 64 k }) ∧
    ((∀ k, 1 ≤ k → k ≤ s.cfg.a.toNat * s.cfg.b.toNat → s.cfg.rangeLen.toNat ≤ (fn^[k] m).toNat) →
      completeWalk (walk fn s.cfg m) s =
        failed .walkLimit { s with iterCount := BitVec.ofNat 64 (s.cfg.a.toNat * s.cfg.b.toNat) })) ∧
    ∀ (s : State) (c : Latched) (i : Instr), (i = .shuffle ∨ i = .unshuffle) → s.latch = some c →
      c.arg0.toNat < s.cfg.rangeLen.toNat → exec i s = .next (completeWalk (walk (coreOf i s) s.cfg c.arg0) s)

/-- With a negative number of stored rounds SHUFFLE and UNSHUFFLE of a value in range also complete without error, after at most two
applications, so WALK_LIMIT is never raised from a legal configuration. The spec leaves open whether the limit is reachable
(42_commands.md section 1: "The spec does not claim the limit is reachable"); that it is not is this model's own inference
(log entry 16), under the spec's parity decision 92_eei_decisions.md D15. -/
def Obligations.WalkLandsWithinTwoForNegativeRounds : Prop :=
  ∀ (s : State) (c : Latched) (i : Instr), (i = .shuffle ∨ i = .unshuffle) → s.latch = some c → s.cfg.Legal →
    s.cfg.rounds.toInt < 0 → c.arg0.toNat < s.cfg.rangeLen.toNat →
    ∃ k, landsAt (coreOf i s) s.cfg.rangeLen c.arg0 k ∧ k ≤ 2 ∧
      exec i s = .next (succeeded { s with result := (coreOf i s)^[k] c.arg0, iterCount := BitVec.ofNat 64 k })

/-- With a round count of 0 or more, SHUFFLE and UNSHUFFLE of a value in range always complete without error, within
`a * b - rangeLen + 1` applications: WALK_LIMIT is never raised (42_commands.md sections 1 and 2, marked derived there). -/
def Obligations.WalkAlwaysLandsForNonnegativeRounds : Prop :=
  ∀ (s : State) (c : Latched) (i : Instr), (i = .shuffle ∨ i = .unshuffle) → s.latch = some c → s.cfg.Legal →
    0 ≤ s.cfg.rounds.toInt → c.arg0.toNat < s.cfg.rangeLen.toNat →
    ∃ k, landsAt (coreOf i s) s.cfg.rangeLen c.arg0 k ∧
      k ≤ s.cfg.a.toNat * s.cfg.b.toNat - s.cfg.rangeLen.toNat + 1 ∧
      exec i s = .next (succeeded { s with result := (coreOf i s)^[k] c.arg0, iterCount := BitVec.ofNat 64 k })

/-- The inverse law: under one configuration, UNSHUFFLE of what SHUFFLE gave returns the index, and SHUFFLE of what UNSHUFFLE gave
returns the value, both with the same ITER_COUNT, for every S-box, every seed and every round count of 0 or more
(42_commands.md section 4, "Inverse law", marked derived there). -/
def Obligations.ShuffleAndUnshuffleAreInverse : Prop :=
  ∀ (s t u : State) (c d : Latched) (i : Instr), (i = .shuffle ∨ i = .unshuffle) → s.latch = some c → s.cfg.Legal →
    0 ≤ s.cfg.rounds.toInt → c.arg0.toNat < s.cfg.rangeLen.toNat → exec i s = .next t → u.cfg = t.cfg → u.sbox = t.sbox →
    u.latch = some d → d.arg0 = t.result →
    ∃ v, exec (if i = .shuffle then .unshuffle else .shuffle) u = .next v ∧ v.status.err = false ∧ v.result = c.arg0 ∧
      v.iterCount = t.iterCount

/-- SHUFFLE is a bijection of `[0, rangeLen)`: every value in range is the result of exactly one index in range
(42_commands.md section 4, "Bijection", marked derived there). -/
def Obligations.ShuffleIsABijectionOfTheRange : Prop :=
  ∀ (s : State) (c : Latched), s.latch = some c → s.cfg.Legal → 0 ≤ s.cfg.rounds.toInt →
    ∀ y : Word, y.toNat < s.cfg.rangeLen.toNat →
      ∃! x : Word, x.toNat < s.cfg.rangeLen.toNat ∧
        ∃ t, exec .shuffle { s with latch := some { c with arg0 := x } } = .next t ∧ t.status.err = false ∧ t.result = y

/-- With 0 or a negative even number of stored rounds, SHUFFLE and UNSHUFFLE return their operand with a count of 1
(42_commands.md section 4, marked derived there). -/
def Obligations.DegenerateRoundsWalkOnce : Prop :=
  ∀ (s : State) (c : Latched) (i : Instr), (i = .shuffle ∨ i = .unshuffle) → s.latch = some c → s.cfg.Legal →
    c.arg0.toNat < s.cfg.rangeLen.toNat → s.cfg.rounds.toInt ≤ 0 → s.cfg.rounds.toInt % 2 = 0 →
    exec i s = .next (succeeded { s with result := c.arg0, iterCount := 1 })

/-- With one value in range and a round count of 0 or more, SHUFFLE and UNSHUFFLE of 0 give 0 with a count of 1 or 2, whatever the
S-box and seed (42_commands.md section 4, marked derived there). -/
def Obligations.OneValueRangeShufflesToItself : Prop :=
  ∀ (s : State) (c : Latched) (i : Instr), (i = .shuffle ∨ i = .unshuffle) → s.latch = some c → s.cfg.rangeLen = 1 →
    s.cfg.a = 1 → s.cfg.b = 2 → 0 ≤ s.cfg.rounds.toInt → s.cfg.rounds.toInt ≤ 64 → c.arg0 = 0 →
    exec i s = .next (succeeded { s with result := 0, iterCount := 1 }) ∨
      exec i s = .next (succeeded { s with result := 0, iterCount := 2 })

/-- The spec's example of a negative odd round count: SHUFFLE of 1 and of 4 both give 2, and no operand gives 4, so SHUFFLE is no
permutation there (42_commands.md section 4, marked derived there). -/
def Obligations.NegativeOddRoundsAreNotAPermutation : Prop :=
  ∀ (s : State) (c : Latched) (seed : Word), s.latch = some c →
    s.cfg = { rangeLen := 5, rounds := 0xFFFFFFFFFFFFFFFF, seed := seed, a := 2, b := 3 } →
    (c.arg0 = 1 ∨ c.arg0 = 4 → exec .shuffle s = .next (succeeded { s with result := 2, iterCount := 1 })) ∧
      ∀ t, exec .shuffle s = .next t → t.status.err = false → t.result ≠ 4

/-! ## Whole-machine rules -/

/-- 60_exceptions.md R201: what any latched word leaves when the engine step executes it, with its frame: on an error only STATUS, the
latch and, for WALK_LIMIT, ITER_COUNT; on success STATUS, the latch and the command's own results, ERR_STICKY and OVERRUN unchanged. -/
def Obligations.CompletionWritesExactlyWhatItShould : Prop :=
  ∀ (s t : State) (c : Latched), s.latch = some c → s.delay = 0 → step s = .next t →
    (t.status.err = true →
      t.status.errcode ≠ .none ∧
        t = failed t.status.errcode
          { s with
            iterCount := if t.status.errcode = .walkLimit then BitVec.ofNat 64 (s.cfg.a.toNat * s.cfg.b.toNat) else s.iterCount }) ∧
    (t.status.err = false →
      t = succeeded { s with cfg := t.cfg, result := t.result, iterCount := t.iterCount } ∧
        (c.word.toNat ≠ 1 → t.cfg = s.cfg) ∧ (c.word.toNat = 1 → t.result = s.result) ∧
        (c.word.toNat ≠ 2 → c.word.toNat ≠ 3 → t.iterCount = s.iterCount))

/-- Only CONFIGURE (or reset) changes the configuration, and nothing at all changes the S-box ROM (10_state.md sections 1 and 2: "Only
CONFIGURE writes cfg", "No command, host access or reset changes it"). -/
def Obligations.OnlyConfigureOrResetChangesTheConfiguration : Prop :=
  ∀ s t : State, step s = .next t →
    t.sbox = s.sbox ∧
      (t.cfg ≠ s.cfg →
        (∃ c, s.latch = some c ∧ s.delay = 0 ∧ c.word = 0x0000000000000001 ∧ t.status.err = false) ∨
          (hostMovesNext s ∧ ∃ rest, s.inputs = .reset :: rest))

/-- 10_state.md R27: RESULT changes only when one of the six value-producing commands completes without error, or at reset. -/
def Obligations.ResultChangesOnlyAtSuccessfulCompletion : Prop :=
  ∀ s t : State, step s = .next t → t.result ≠ s.result →
    (∃ c, s.latch = some c ∧ s.delay = 0 ∧ 2 ≤ c.word.toNat ∧ c.word.toNat ≤ 7 ∧ t.status.done = true ∧ t.status.err = false) ∨
      (hostMovesNext s ∧ ∃ rest, s.inputs = .reset :: rest)

/-- ITER_COUNT changes only when SHUFFLE or UNSHUFFLE completes without error or with WALK_LIMIT, or at reset (10_state.md section 3).
-/
def Obligations.IterCountChangesOnlyAtWalks : Prop :=
  ∀ s t : State, step s = .next t → t.iterCount ≠ s.iterCount →
    (∃ c, s.latch = some c ∧ s.delay = 0 ∧ (c.word.toNat = 2 ∨ c.word.toNat = 3) ∧ t.status.done = true ∧
        (t.status.err = false ∨ t.status.errcode = .walkLimit)) ∨
      (hostMovesNext s ∧ ∃ rest, s.inputs = .reset :: rest)

/-- Once set, ERR_STICKY is cleared by reset only, and any completion with an error sets it (10_state.md section 3, the STATUS table).
-/
def Obligations.ErrStickyClearsOnlyAtReset : Prop :=
  ∀ s t : State, step s = .next t →
    (s.status.errSticky = true → t.status.errSticky = true ∨ (hostMovesNext s ∧ ∃ rest, s.inputs = .reset :: rest)) ∧
      (s.latch ≠ none → s.delay = 0 → t.status.err = true → t.status.errSticky = true)

/-- What a command answers depends on the configuration, the ROM and the latched operands alone, not on earlier commands, other
registers or host traffic (42_commands.md section 4, "Determinism", marked derived there). -/
def Obligations.AnswersDependOnlyOnConfigurationRomAndOperands : Prop :=
  ∀ (i : Instr) (s₁ s₂ t₁ t₂ : State) (c : Latched), s₁.latch = some c → s₂.latch = some c → s₁.cfg = s₂.cfg →
    s₁.sbox = s₂.sbox → exec i s₁ = .next t₁ → exec i s₂ = .next t₂ →
    t₁.status.err = t₂.status.err ∧ t₁.status.errcode = t₂.status.errcode ∧ t₁.cfg = t₂.cfg ∧
      (t₁.status.err = false → i ≠ .configure → t₁.result = t₂.result) ∧
      (i = .shuffle ∨ i = .unshuffle → t₁.status.errcode ≠ .indexRange → t₁.iterCount = t₂.iterCount)
end

