-- ==== Sys2Proof/Laws/Numbers.lean ====
section
/-! SUPPORT. What the number functions do: narrowing, shifts, the integer square root, the post-adjustment loop, the construction,
and the modular reduction unit. -/

namespace Sys2Proof.Machine

@[simp] theorem u64_toNat (n : Nat) : (u64 n).toNat = n % 2 ^ 64 := BitVec.toNat_ofNat n 64

theorem u64_toNat_of_lt {n : Nat} (h : n < 2 ^ 64) : (u64 n).toNat = n := by
  rw [u64_toNat, Nat.mod_eq_of_lt h]

theorem u64_of_toNat (w : Word) : u64 w.toNat = w := BitVec.ofNat_toNat 64 w |>.trans (BitVec.setWidth_eq w)

theorem shl64_eq_shiftLeft (x : Word) (n : Nat) : shl64 x n = x <<< n := by
  unfold shl64
  split
  · apply BitVec.eq_of_toNat_eq
    simp [BitVec.toNat_shiftLeft, Nat.shiftLeft_eq]
  · rw [BitVec.shiftLeft_eq_zero (by omega)]
    rfl

theorem shr64_eq_ushiftRight (x : Word) (n : Nat) : shr64 x n = x >>> n := by
  unfold shr64
  split
  · apply BitVec.eq_of_toNat_eq
    have : x.toNat / 2 ^ n < 2 ^ 64 := lt_of_le_of_lt (Nat.div_le_self _ _) x.isLt
    simpa [BitVec.toNat_ushiftRight, Nat.shiftRight_eq_div_pow] using this
  · rw [BitVec.ushiftRight_eq_zero (by omega)]
    rfl

/-- Each digit step keeps the root between `r` and `r + 2^k`, so the end is the exact root. -/
theorem isqrtDigits_spec (n : Nat) :
    ∀ k r, r * r ≤ n → n < (r + 2 ^ k) * (r + 2 ^ k) →
      isqrtDigits n k r * isqrtDigits n k r ≤ n ∧ n < (isqrtDigits n k r + 1) * (isqrtDigits n k r + 1)
  | 0, r, lo, hi => ⟨lo, by simpa [isqrtDigits] using hi⟩
  | k + 1, r, lo, hi => by
    unfold isqrtDigits
    split
    · next h =>
      exact isqrtDigits_spec n k _ h (by rw [pow_succ] at hi; convert hi using 2 <;> ring)
    · next h => exact isqrtDigits_spec n k r lo (by omega)

theorem isqrt_spec {n : Nat} (h : n < 2 ^ 64) : isqrt n * isqrt n ≤ n ∧ n < (isqrt n + 1) * (isqrt n + 1) :=
  isqrtDigits_spec n 32 0 (Nat.zero_le n) (by omega)

theorem isqrt_eq_sqrt {n : Nat} (h : n < 2 ^ 64) : isqrt n = Nat.sqrt n :=
  Nat.eq_sqrt.2 (isqrt_spec h)

/-- The loop adds some `i ≤ fuel` to `b`, every product before the end is at most `n`, and it stops early only above `n`. -/
theorem raiseB_spec (a n : Nat) :
    ∀ fuel b, ∃ i, i ≤ fuel ∧ raiseB a n fuel b = b + i ∧ (∀ k, k < i → a * (b + k) ≤ n) ∧
      (i < fuel → n < a * (b + i))
  | 0, b => ⟨0, le_refl _, rfl, by simp, by simp⟩
  | fuel + 1, b => by
    unfold raiseB
    split
    · next h =>
      obtain ⟨i, hi, he, hk, hn⟩ := raiseB_spec a n fuel (b + 1)
      refine ⟨i + 1, by omega, by omega, ?_, fun hlt => ?_⟩
      · intro k hk'
        cases k with
        | zero => exact h
        | succ k => have := hk k (by omega); rwa [Nat.add_assoc, Nat.add_comm 1] at this
      · have := hn (by omega)
        rwa [Nat.add_assoc, Nat.add_comm 1] at this
    · next h => exact ⟨0, by omega, rfl, by simp, fun _ => by simpa using h⟩

/-- The starting moduli above the small-range table (40_configure.md R104). -/
theorem startModuli_of_nine_le {n : Nat} (h : 9 ≤ n) : startModuli n = (isqrt n - 2, isqrt n + 3) := by
  unfold startModuli
  rw [List.getD_eq_default]
  simpa [smallModuli] using h

/-- Ten increments always suffice (40_configure.md R106). -/
theorem ten_increments_suffice {n : Nat} (h0 : n ≠ 0) (hn : n < 2 ^ 64) :
    n < (startModuli n).1 * ((startModuli n).2 + maxIncrements) := by
  rcases Nat.lt_or_ge n 9 with h | h
  · interval_cases n <;> first | exact absurd rfl h0 | decide
  · rw [startModuli_of_nine_le h]
    obtain ⟨lo, hi⟩ := isqrt_spec hn
    have h3 : 3 ≤ isqrt n := by
      by_contra hc
      have : isqrt n + 1 ≤ 3 := by omega
      have := Nat.mul_le_mul this this
      omega
    obtain ⟨s, hs⟩ := Nat.exists_eq_add_of_le h3
    rw [hs] at hi ⊢
    simp only [maxIncrements]
    have : (3 + s + 1) * (3 + s + 1) ≤ (3 + s - 2) * (3 + s + 3 + 10) := by
      have e : 3 + s - 2 = s + 1 := by omega
      rw [e]
      nlinarith
    omega

/-- The loop ends with strict coverage and with the least such `b` (40_configure.md R105). -/
theorem moduli_spec {n : Nat} (h0 : n ≠ 0) (hn : n < 2 ^ 64) :
    (moduli n).1 = (startModuli n).1 ∧ (startModuli n).2 ≤ (moduli n).2 ∧ n < (moduli n).1 * (moduli n).2 ∧
      (moduli n).2 ≤ (startModuli n).2 + maxIncrements ∧
      ∀ b, (startModuli n).2 ≤ b → n < (startModuli n).1 * b → (moduli n).2 ≤ b := by
  obtain ⟨i, hi, he, hk, hlt⟩ := raiseB_spec (startModuli n).1 n maxIncrements (startModuli n).2
  have hm : moduli n = ((startModuli n).1, (startModuli n).2 + i) := by
    simp only [moduli, h0, if_false, he]
  have cover : n < (startModuli n).1 * ((startModuli n).2 + i) := by
    rcases Nat.lt_or_ge i maxIncrements with hi' | hi'
    · exact hlt hi'
    · have : i = maxIncrements := by omega
      rw [this]
      exact ten_increments_suffice h0 hn
  rw [hm]
  refine ⟨rfl, by simp, cover, by simpa using hi, fun b hb hc => ?_⟩
  by_contra hc'
  have hb' : b < (startModuli n).2 + i := by simpa using hc'
  obtain ⟨k, rfl⟩ := Nat.exists_eq_add_of_le hb
  have := hk k (by omega)
  omega

@[simp] theorem moduli_zero : moduli 0 = (0, 0) := rfl

theorem addMod_toNat (l f m : Word) (hm : m.toNat ≠ 0) : (addMod l f m).toNat = (l.toNat + f.toNat) % m.toNat := by
  unfold addMod
  exact u64_toNat_of_lt (lt_trans (Nat.mod_lt _ (Nat.pos_of_ne_zero hm)) m.isLt)

theorem addMod_lt (l f m : Word) (hm : m.toNat ≠ 0) : (addMod l f m).toNat < m.toNat := by
  rw [addMod_toNat l f m hm]
  exact Nat.mod_lt _ (Nat.pos_of_ne_zero hm)

/-- The source's branch and correction, as numbers (41_datapath.md R133). -/
theorem subMod_toNat (r t m : Word) (hm : m.toNat ≠ 0) :
    (subMod r t m).toNat =
      if r.toNat < t.toNat then
        if (t.toNat - r.toNat) % m.toNat = 0 then 0 else m.toNat - (t.toNat - r.toNat) % m.toNat
      else (r.toNat - t.toNat) % m.toNat := by
  have hm' := m.isLt
  unfold subMod
  by_cases h : r.toNat < t.toNat
  · have hlt : (t.toNat - r.toNat) % m.toNat < m.toNat := Nat.mod_lt _ (Nat.pos_of_ne_zero hm)
    rw [if_pos h, if_pos h]
    by_cases h0 : (t.toNat - r.toNat) % m.toNat = 0
    · simp [h0]
    · have : m.toNat - (t.toNat - r.toNat) % m.toNat ≠ m.toNat := by omega
      simp only [this, h0, if_false]
      exact u64_toNat_of_lt (by omega)
  · rw [if_neg h, if_neg h]
    exact u64_toNat_of_lt (lt_trans (Nat.mod_lt _ (Nat.pos_of_ne_zero hm)) hm')

theorem subMod_lt (r t m : Word) (hm : m.toNat ≠ 0) : (subMod r t m).toNat < m.toNat := by
  rw [subMod_toNat r t m hm]
  have h1 : (t.toNat - r.toNat) % m.toNat < m.toNat := Nat.mod_lt _ (Nat.pos_of_ne_zero hm)
  have h2 : (r.toNat - t.toNat) % m.toNat < m.toNat := Nat.mod_lt _ (Nat.pos_of_ne_zero hm)
  split
  · split <;> omega
  · exact h2

end Sys2Proof.Machine
end

