-- ==== Sys2Proof/Laws/State.lean ====
section
/-! SUPPORT. One lemma per field per update of State and of STATUS, so that no proof unfolds a record update. -/

namespace Sys2Proof.Machine

@[simp] theorem latchCommand_cfg (w : Word) (d : Nat) (s : State) : (latchCommand w d s).cfg = s.cfg := rfl
@[simp] theorem latchCommand_arg0 (w : Word) (d : Nat) (s : State) : (latchCommand w d s).arg0 = s.arg0 := rfl
@[simp] theorem latchCommand_arg1 (w : Word) (d : Nat) (s : State) : (latchCommand w d s).arg1 = s.arg1 := rfl
@[simp] theorem latchCommand_arg2 (w : Word) (d : Nat) (s : State) : (latchCommand w d s).arg2 = s.arg2 := rfl
@[simp] theorem latchCommand_result (w : Word) (d : Nat) (s : State) : (latchCommand w d s).result = s.result := rfl
@[simp] theorem latchCommand_iterCount (w : Word) (d : Nat) (s : State) : (latchCommand w d s).iterCount = s.iterCount := rfl
@[simp] theorem latchCommand_status (w : Word) (d : Nat) (s : State) : (latchCommand w d s).status = s.status.accepted := rfl
@[simp] theorem latchCommand_latch (w : Word) (d : Nat) (s : State) : (latchCommand w d s).latch = some { word := w, arg0 := s.arg0, arg1 := s.arg1, arg2 := s.arg2 } := rfl
@[simp] theorem latchCommand_sbox (w : Word) (d : Nat) (s : State) : (latchCommand w d s).sbox = s.sbox := rfl
@[simp] theorem latchCommand_delay (w : Word) (d : Nat) (s : State) : (latchCommand w d s).delay = d := rfl
@[simp] theorem latchCommand_draws (w : Word) (d : Nat) (s : State) : (latchCommand w d s).draws = s.draws := rfl
@[simp] theorem latchCommand_inputs (w : Word) (d : Nat) (s : State) : (latchCommand w d s).inputs = s.inputs := rfl
@[simp] theorem latchCommand_responses (w : Word) (d : Nat) (s : State) : (latchCommand w d s).responses = s.responses := rfl

@[simp] theorem accept_cfg (w : Word) (s : State) : (accept w s).cfg = s.cfg := rfl
@[simp] theorem accept_arg0 (w : Word) (s : State) : (accept w s).arg0 = s.arg0 := rfl
@[simp] theorem accept_arg1 (w : Word) (s : State) : (accept w s).arg1 = s.arg1 := rfl
@[simp] theorem accept_arg2 (w : Word) (s : State) : (accept w s).arg2 = s.arg2 := rfl
@[simp] theorem accept_result (w : Word) (s : State) : (accept w s).result = s.result := rfl
@[simp] theorem accept_iterCount (w : Word) (s : State) : (accept w s).iterCount = s.iterCount := rfl
@[simp] theorem accept_status (w : Word) (s : State) : (accept w s).status = s.status.accepted := rfl
@[simp] theorem accept_latch (w : Word) (s : State) : (accept w s).latch = some { word := w, arg0 := s.arg0, arg1 := s.arg1, arg2 := s.arg2 } := rfl
@[simp] theorem accept_sbox (w : Word) (s : State) : (accept w s).sbox = s.sbox := rfl
@[simp] theorem accept_delay (w : Word) (s : State) : (accept w s).delay = Config.latency s.draws := rfl
@[simp] theorem accept_draws (w : Word) (s : State) : (accept w s).draws = s.draws + 1 := rfl
@[simp] theorem accept_inputs (w : Word) (s : State) : (accept w s).inputs = s.inputs := rfl
@[simp] theorem accept_responses (w : Word) (s : State) : (accept w s).responses = s.responses := rfl

@[simp] theorem markOverrun_cfg (s : State) : (markOverrun s).cfg = s.cfg := rfl
@[simp] theorem markOverrun_arg0 (s : State) : (markOverrun s).arg0 = s.arg0 := rfl
@[simp] theorem markOverrun_arg1 (s : State) : (markOverrun s).arg1 = s.arg1 := rfl
@[simp] theorem markOverrun_arg2 (s : State) : (markOverrun s).arg2 = s.arg2 := rfl
@[simp] theorem markOverrun_result (s : State) : (markOverrun s).result = s.result := rfl
@[simp] theorem markOverrun_iterCount (s : State) : (markOverrun s).iterCount = s.iterCount := rfl
@[simp] theorem markOverrun_status (s : State) : (markOverrun s).status = s.status.overrunMarked := rfl
@[simp] theorem markOverrun_latch (s : State) : (markOverrun s).latch = s.latch := rfl
@[simp] theorem markOverrun_sbox (s : State) : (markOverrun s).sbox = s.sbox := rfl
@[simp] theorem markOverrun_delay (s : State) : (markOverrun s).delay = s.delay := rfl
@[simp] theorem markOverrun_draws (s : State) : (markOverrun s).draws = s.draws := rfl
@[simp] theorem markOverrun_inputs (s : State) : (markOverrun s).inputs = s.inputs := rfl
@[simp] theorem markOverrun_responses (s : State) : (markOverrun s).responses = s.responses := rfl

@[simp] theorem completeOk_cfg (s : State) : (completeOk s).cfg = s.cfg := rfl
@[simp] theorem completeOk_arg0 (s : State) : (completeOk s).arg0 = s.arg0 := rfl
@[simp] theorem completeOk_arg1 (s : State) : (completeOk s).arg1 = s.arg1 := rfl
@[simp] theorem completeOk_arg2 (s : State) : (completeOk s).arg2 = s.arg2 := rfl
@[simp] theorem completeOk_result (s : State) : (completeOk s).result = s.result := rfl
@[simp] theorem completeOk_iterCount (s : State) : (completeOk s).iterCount = s.iterCount := rfl
@[simp] theorem completeOk_status (s : State) : (completeOk s).status = s.status.completedOk := rfl
@[simp] theorem completeOk_latch (s : State) : (completeOk s).latch = none := rfl
@[simp] theorem completeOk_sbox (s : State) : (completeOk s).sbox = s.sbox := rfl
@[simp] theorem completeOk_delay (s : State) : (completeOk s).delay = s.delay := rfl
@[simp] theorem completeOk_draws (s : State) : (completeOk s).draws = s.draws := rfl
@[simp] theorem completeOk_inputs (s : State) : (completeOk s).inputs = s.inputs := rfl
@[simp] theorem completeOk_responses (s : State) : (completeOk s).responses = s.responses := rfl

@[simp] theorem raiseError_cfg (e : ErrorCode) (s : State) : (raiseError e s).cfg = s.cfg := rfl
@[simp] theorem raiseError_arg0 (e : ErrorCode) (s : State) : (raiseError e s).arg0 = s.arg0 := rfl
@[simp] theorem raiseError_arg1 (e : ErrorCode) (s : State) : (raiseError e s).arg1 = s.arg1 := rfl
@[simp] theorem raiseError_arg2 (e : ErrorCode) (s : State) : (raiseError e s).arg2 = s.arg2 := rfl
@[simp] theorem raiseError_result (e : ErrorCode) (s : State) : (raiseError e s).result = s.result := rfl
@[simp] theorem raiseError_iterCount (e : ErrorCode) (s : State) : (raiseError e s).iterCount = s.iterCount := rfl
@[simp] theorem raiseError_status (e : ErrorCode) (s : State) : (raiseError e s).status = s.status.completedError e := rfl
@[simp] theorem raiseError_latch (e : ErrorCode) (s : State) : (raiseError e s).latch = none := rfl
@[simp] theorem raiseError_sbox (e : ErrorCode) (s : State) : (raiseError e s).sbox = s.sbox := rfl
@[simp] theorem raiseError_delay (e : ErrorCode) (s : State) : (raiseError e s).delay = s.delay := rfl
@[simp] theorem raiseError_draws (e : ErrorCode) (s : State) : (raiseError e s).draws = s.draws := rfl
@[simp] theorem raiseError_inputs (e : ErrorCode) (s : State) : (raiseError e s).inputs = s.inputs := rfl
@[simp] theorem raiseError_responses (e : ErrorCode) (s : State) : (raiseError e s).responses = s.responses := rfl

@[simp] theorem completeWith_cfg (v : Word) (s : State) : (completeWith v s).cfg = s.cfg := rfl
@[simp] theorem completeWith_arg0 (v : Word) (s : State) : (completeWith v s).arg0 = s.arg0 := rfl
@[simp] theorem completeWith_arg1 (v : Word) (s : State) : (completeWith v s).arg1 = s.arg1 := rfl
@[simp] theorem completeWith_arg2 (v : Word) (s : State) : (completeWith v s).arg2 = s.arg2 := rfl
@[simp] theorem completeWith_result (v : Word) (s : State) : (completeWith v s).result = v := rfl
@[simp] theorem completeWith_iterCount (v : Word) (s : State) : (completeWith v s).iterCount = s.iterCount := rfl
@[simp] theorem completeWith_status (v : Word) (s : State) : (completeWith v s).status = s.status.completedOk := rfl
@[simp] theorem completeWith_latch (v : Word) (s : State) : (completeWith v s).latch = none := rfl
@[simp] theorem completeWith_sbox (v : Word) (s : State) : (completeWith v s).sbox = s.sbox := rfl
@[simp] theorem completeWith_delay (v : Word) (s : State) : (completeWith v s).delay = s.delay := rfl
@[simp] theorem completeWith_draws (v : Word) (s : State) : (completeWith v s).draws = s.draws := rfl
@[simp] theorem completeWith_inputs (v : Word) (s : State) : (completeWith v s).inputs = s.inputs := rfl
@[simp] theorem completeWith_responses (v : Word) (s : State) : (completeWith v s).responses = s.responses := rfl

@[simp] theorem respond_cfg (r : Response) (s : State) : (respond r s).cfg = s.cfg := rfl
@[simp] theorem respond_arg0 (r : Response) (s : State) : (respond r s).arg0 = s.arg0 := rfl
@[simp] theorem respond_arg1 (r : Response) (s : State) : (respond r s).arg1 = s.arg1 := rfl
@[simp] theorem respond_arg2 (r : Response) (s : State) : (respond r s).arg2 = s.arg2 := rfl
@[simp] theorem respond_result (r : Response) (s : State) : (respond r s).result = s.result := rfl
@[simp] theorem respond_iterCount (r : Response) (s : State) : (respond r s).iterCount = s.iterCount := rfl
@[simp] theorem respond_status (r : Response) (s : State) : (respond r s).status = s.status := rfl
@[simp] theorem respond_latch (r : Response) (s : State) : (respond r s).latch = s.latch := rfl
@[simp] theorem respond_sbox (r : Response) (s : State) : (respond r s).sbox = s.sbox := rfl
@[simp] theorem respond_delay (r : Response) (s : State) : (respond r s).delay = s.delay := rfl
@[simp] theorem respond_draws (r : Response) (s : State) : (respond r s).draws = s.draws := rfl
@[simp] theorem respond_inputs (r : Response) (s : State) : (respond r s).inputs = s.inputs := rfl
@[simp] theorem respond_responses (r : Response) (s : State) : (respond r s).responses = r :: s.responses := rfl

@[simp] theorem resetBlock_cfg (s : State) : (resetBlock s).cfg = Cfg.reset := rfl
@[simp] theorem resetBlock_arg0 (s : State) : (resetBlock s).arg0 = 0 := rfl
@[simp] theorem resetBlock_arg1 (s : State) : (resetBlock s).arg1 = 0 := rfl
@[simp] theorem resetBlock_arg2 (s : State) : (resetBlock s).arg2 = 0 := rfl
@[simp] theorem resetBlock_result (s : State) : (resetBlock s).result = 0 := rfl
@[simp] theorem resetBlock_iterCount (s : State) : (resetBlock s).iterCount = 0 := rfl
@[simp] theorem resetBlock_status (s : State) : (resetBlock s).status = Status.reset := rfl
@[simp] theorem resetBlock_latch (s : State) : (resetBlock s).latch = none := rfl
@[simp] theorem resetBlock_sbox (s : State) : (resetBlock s).sbox = s.sbox := rfl
@[simp] theorem resetBlock_delay (s : State) : (resetBlock s).delay = 0 := rfl
@[simp] theorem resetBlock_draws (s : State) : (resetBlock s).draws = s.draws := rfl
@[simp] theorem resetBlock_inputs (s : State) : (resetBlock s).inputs = s.inputs := rfl
@[simp] theorem resetBlock_responses (s : State) : (resetBlock s).responses = s.responses := rfl

@[simp] theorem accepted_busy (t : Status) : (t.accepted).busy = true := rfl
@[simp] theorem accepted_done (t : Status) : (t.accepted).done = false := rfl
@[simp] theorem accepted_err (t : Status) : (t.accepted).err = false := rfl
@[simp] theorem accepted_errSticky (t : Status) : (t.accepted).errSticky = t.errSticky := rfl
@[simp] theorem accepted_overrun (t : Status) : (t.accepted).overrun = t.overrun := rfl
@[simp] theorem accepted_errcode (t : Status) : (t.accepted).errcode = .none := rfl

@[simp] theorem completedOk_busy (t : Status) : (t.completedOk).busy = false := rfl
@[simp] theorem completedOk_done (t : Status) : (t.completedOk).done = true := rfl
@[simp] theorem completedOk_err (t : Status) : (t.completedOk).err = false := rfl
@[simp] theorem completedOk_errSticky (t : Status) : (t.completedOk).errSticky = t.errSticky := rfl
@[simp] theorem completedOk_overrun (t : Status) : (t.completedOk).overrun = t.overrun := rfl
@[simp] theorem completedOk_errcode (t : Status) : (t.completedOk).errcode = .none := rfl

@[simp] theorem completedError_busy (e : ErrorCode) (t : Status) : (t.completedError e).busy = false := rfl
@[simp] theorem completedError_done (e : ErrorCode) (t : Status) : (t.completedError e).done = true := rfl
@[simp] theorem completedError_err (e : ErrorCode) (t : Status) : (t.completedError e).err = true := rfl
@[simp] theorem completedError_errSticky (e : ErrorCode) (t : Status) : (t.completedError e).errSticky = true := rfl
@[simp] theorem completedError_overrun (e : ErrorCode) (t : Status) : (t.completedError e).overrun = t.overrun := rfl
@[simp] theorem completedError_errcode (e : ErrorCode) (t : Status) : (t.completedError e).errcode = e := rfl

@[simp] theorem overrunMarked_busy (t : Status) : (t.overrunMarked).busy = t.busy := rfl
@[simp] theorem overrunMarked_done (t : Status) : (t.overrunMarked).done = t.done := rfl
@[simp] theorem overrunMarked_err (t : Status) : (t.overrunMarked).err = t.err := rfl
@[simp] theorem overrunMarked_errSticky (t : Status) : (t.overrunMarked).errSticky = t.errSticky := rfl
@[simp] theorem overrunMarked_overrun (t : Status) : (t.overrunMarked).overrun = true := rfl
@[simp] theorem overrunMarked_errcode (t : Status) : (t.overrunMarked).errcode = t.errcode := rfl

end Sys2Proof.Machine
end

