-- ==== Sys2Proof/Laws/Ops.lean ====
section
/-! SUPPORT. One lemma per shared operation: where an access lands, what a write can do, and what each meaning answers on a latched
command. -/

namespace Sys2Proof.Machine

/-- A legal access to the register at a named offset reaches that register (10_state.md R24). -/
@[simp] theorem accessTarget_regOffset (r : RegName) : accessTarget (regOffset r) 8 = some r := by
  cases r <;> rfl

/-- A legal access reaches the register of its offset, and an illegal one reaches none (20_memory.md R53). -/
theorem accessTarget_eq_some_iff (off : Offset) (width : Nat) (r : RegName) :
    accessTarget off width = some r ↔ width = 8 ∧ off = regOffset r := by
  by_cases hw : width = 8
  · subst hw
    simp only [true_and]
    revert off
    cases r <;> decide
  · simp [accessTarget, accessLegal, hw]

theorem accessTarget_eq_none_iff (off : Offset) (width : Nat) :
    accessTarget off width = none ↔ width ≠ 8 ∨ off.toNat % 8 ≠ 0 ∨ 0x58 < off.toNat := by
  by_cases hw : width = 8
  · subst hw
    revert off
    decide
  · simp [accessTarget, accessLegal, hw]

theorem onLatched_some {s : State} {c : Latched} (h : s.latch = some c) (k : Latched → State) :
    onLatched s k = .next (k c) := by
  simp [onLatched, h]

theorem onLatched_eq_next {s t : State} {k : Latched → State} (h : onLatched s k = .next t) :
    ∃ c, s.latch = some c ∧ t = k c := by
  unfold onLatched at h
  split at h
  · next c hc => exact ⟨c, hc, by injection h with h; exact h.symm⟩
  · exact absurd h (by simp)

theorem exec_configure {s : State} {c : Latched} (h : s.latch = some c) :
    exec .configure s = .next (match construct c.arg0 c.arg1 c.arg2 with
      | some cfg => completeOk { s with cfg := cfg }
      | none => raiseError .cfgOverflow s) := onLatched_some h _

theorem exec_shuffle {s : State} {c : Latched} (h : s.latch = some c) :
    exec .shuffle s = .next (walkCommand (encryptCore s.sbox s.cfg) c.arg0 s) := onLatched_some h _

theorem exec_unshuffle {s : State} {c : Latched} (h : s.latch = some c) :
    exec .unshuffle s = .next (walkCommand (decryptCore s.sbox s.cfg) c.arg0 s) := onLatched_some h _

theorem exec_encrypt {s : State} {c : Latched} (h : s.latch = some c) :
    exec .encrypt s = .next (coreCommand (encryptCore s.sbox s.cfg) c.arg0 s) := onLatched_some h _

theorem exec_decrypt {s : State} {c : Latched} (h : s.latch = some c) :
    exec .decrypt s = .next (coreCommand (decryptCore s.sbox s.cfg) c.arg0 s) := onLatched_some h _

theorem exec_roundf {s : State} {c : Latched} (h : s.latch = some c) :
    exec .roundf s = .next (if c.arg1.toNat < 1 ∨ 64 < c.arg1.toNat then raiseError .roundRange s
      else completeWith (roundF s.sbox s.cfg.seed c.arg1.toNat c.arg0) s) := onLatched_some h _

theorem exec_sboxrd {s : State} {c : Latched} (h : s.latch = some c) :
    exec .sboxrd s = .next (if 255 < c.arg0.toNat then raiseError .sboxIndex s
      else completeWith (zext64 (sboxAt s.sbox (c.arg0.setWidth 8))) s) := onLatched_some h _

/-- What a meaning can leave: an error with nothing but WALK_LIMIT's ITER_COUNT beside it, a new configuration, a result, or a
result with its count (60_exceptions.md R201). -/
theorem exec_cases {i : Instr} {s t : State} (h : exec i s = .next t) :
    ∃ c, s.latch = some c ∧
      ((∃ e, e ≠ .none ∧ e ≠ .walkLimit ∧ t = raiseError e s) ∨
        ((i = .shuffle ∨ i = .unshuffle) ∧
          t = raiseError .walkLimit { s with iterCount := u64 (domainSize s.cfg) }) ∨
        (i = .configure ∧ ∃ cfg, construct c.arg0 c.arg1 c.arg2 = some cfg ∧ t = completeOk { s with cfg := cfg }) ∨
        ((i = .shuffle ∨ i = .unshuffle) ∧ ∃ v k, t = completeWith v { s with iterCount := u64 k }) ∨
        (i ≠ .configure ∧ i ≠ .shuffle ∧ i ≠ .unshuffle ∧ ∃ v, t = completeWith v s)) := by
  have latched : ∃ c, s.latch = some c := by
    cases i <;> (obtain ⟨c, hc, -⟩ := onLatched_eq_next h; exact ⟨c, hc⟩)
  obtain ⟨c, hc⟩ := latched
  refine ⟨c, hc, ?_⟩
  have walked (fn : Word → Word) (ht : t = walkCommand fn c.arg0 s) :
      (∃ e, e ≠ .none ∧ e ≠ .walkLimit ∧ t = raiseError e s) ∨
        t = raiseError .walkLimit { s with iterCount := u64 (domainSize s.cfg) } ∨
        ∃ v k, t = completeWith v { s with iterCount := u64 k } := by
    unfold walkCommand at ht
    split at ht
    · exact .inl ⟨.indexRange, by decide, by decide, ht⟩
    · unfold completeWalk at ht
      split at ht
      · exact .inr (.inr ⟨_, _, ht⟩)
      · exact .inr (.inl ht)
  cases i with
  | configure =>
    rw [exec_configure hc] at h
    injection h with h
    split at h
    · next cfg hcfg => exact .inr (.inr (.inl ⟨rfl, cfg, hcfg, h.symm⟩))
    · exact .inl ⟨.cfgOverflow, by decide, by decide, h.symm⟩
  | shuffle =>
    rw [exec_shuffle hc] at h
    injection h with h
    rcases walked _ h.symm with h | h | h
    · exact .inl h
    · exact .inr (.inl ⟨.inl rfl, h⟩)
    · exact .inr (.inr (.inr (.inl ⟨.inl rfl, h⟩)))
  | unshuffle =>
    rw [exec_unshuffle hc] at h
    injection h with h
    rcases walked _ h.symm with h | h | h
    · exact .inl h
    · exact .inr (.inl ⟨.inr rfl, h⟩)
    · exact .inr (.inr (.inr (.inl ⟨.inr rfl, h⟩)))
  | encrypt =>
    rw [exec_encrypt hc] at h
    injection h with h
    unfold coreCommand at h
    split at h
    · exact .inl ⟨.domainRange, by decide, by decide, h.symm⟩
    · exact .inr (.inr (.inr (.inr ⟨by decide, by decide, by decide, _, h.symm⟩)))
  | decrypt =>
    rw [exec_decrypt hc] at h
    injection h with h
    unfold coreCommand at h
    split at h
    · exact .inl ⟨.domainRange, by decide, by decide, h.symm⟩
    · exact .inr (.inr (.inr (.inr ⟨by decide, by decide, by decide, _, h.symm⟩)))
  | roundf =>
    rw [exec_roundf hc] at h
    injection h with h
    split at h
    · exact .inl ⟨.roundRange, by decide, by decide, h.symm⟩
    · exact .inr (.inr (.inr (.inr ⟨by decide, by decide, by decide, _, h.symm⟩)))
  | sboxrd =>
    rw [exec_sboxrd hc] at h
    injection h with h
    split at h
    · exact .inl ⟨.sboxIndex, by decide, by decide, h.symm⟩
    · exact .inr (.inr (.inr (.inr ⟨by decide, by decide, by decide, _, h.symm⟩)))

end Sys2Proof.Machine
end

