-- ==== Sys2Proof/Laws/PerInstr.lean ====
section
/-! SUPPORT. Per instruction: its word as the spec prints it, its bytes on the bus, and that both decode to it. -/

namespace Sys2Proof.Laws.Encoding

/-- The instruction is well-formed; its word has RSVD zero, is well-formed, and decodes to it, as a word and as the eight bytes an
interconnect carries. -/
def Statement (i : Instr) : Prop :=
  i.wellFormed = true ∧ rsvdField (encode i) = 0 ∧ opcField (encode i) = opcodeOf i ∧
    commandWordWellFormed (encode i) = true ∧ decode (encode i) = .ok i ∧ decodeBytes (bytesOfWord (encode i)) = .ok i

theorem configure : Statement .configure := by refine ⟨?_, ?_, ?_, ?_, ?_, ?_⟩ <;> rfl
theorem shuffle : Statement .shuffle := by refine ⟨?_, ?_, ?_, ?_, ?_, ?_⟩ <;> rfl
theorem unshuffle : Statement .unshuffle := by refine ⟨?_, ?_, ?_, ?_, ?_, ?_⟩ <;> rfl
theorem encrypt : Statement .encrypt := by refine ⟨?_, ?_, ?_, ?_, ?_, ?_⟩ <;> rfl
theorem decrypt : Statement .decrypt := by refine ⟨?_, ?_, ?_, ?_, ?_, ?_⟩ <;> rfl
theorem roundf : Statement .roundf := by refine ⟨?_, ?_, ?_, ?_, ?_, ?_⟩ <;> rfl
theorem sboxrd : Statement .sboxrd := by refine ⟨?_, ?_, ?_, ?_, ?_, ?_⟩ <;> rfl

end Sys2Proof.Laws.Encoding
end

