-- ==== Sys2Proof/Laws/Step.lean ====
section
/-! SUPPORT. What one step can do, said once. -/

namespace Sys2Proof.Machine

theorem step_engine {s : State} {c : Latched} (hl : s.latch = some c) (hd : s.delay = 0) : step s = engineTurn c s := by
  simp [step, turn, hl, hd]

theorem step_idle {s : State} (hl : s.latch = none) : step s = .next (hostTurn s) := by
  simp [step, turn, hl]

theorem step_waiting {s : State} {c : Latched} (hl : s.latch = some c) (hd : s.delay ≠ 0) :
    step s = .next (hostTurn { s with delay := s.delay - 1 }) := by
  simp [step, turn, hl, hd]

/-- A step is a command, an illegal word, or a host turn. -/
theorem step_cases {s t : State} (h : step s = .next t) :
    (∃ c i, s.latch = some c ∧ s.delay = 0 ∧ decode c.word = .ok i ∧ exec i s = .next t) ∨
      (∃ c r, s.latch = some c ∧ s.delay = 0 ∧ decode c.word = .error r ∧ t = raiseError .illegalCmd s) ∨
      (s.latch = none ∧ t = hostTurn s) ∨
      (∃ c, s.latch = some c ∧ s.delay ≠ 0 ∧ t = hostTurn { s with delay := s.delay - 1 }) := by
  rcases Option.eq_none_or_eq_some s.latch with hl | ⟨c, hl⟩
  · rw [step_idle hl] at h
    injection h with h
    exact .inr (.inr (.inl ⟨hl, h.symm⟩))
  · by_cases hd : s.delay = 0
    · rw [step_engine hl hd] at h
      unfold engineTurn at h
      split at h
      · next i hi => exact .inl ⟨c, i, hl, hd, hi, h⟩
      · next r hr =>
        injection h with h
        exact .inr (.inl ⟨c, r, hl, hd, hr, h.symm⟩)
    · rw [step_waiting hl hd] at h
      injection h with h
      exact .inr (.inr (.inr ⟨c, hl, hd, h.symm⟩))

theorem hostTurn_nil {s : State} (h : s.inputs = []) : hostTurn s = s := by
  simp [hostTurn, h]

theorem hostTurn_cons {s : State} {i : HostInput} {rest : List HostInput} (h : s.inputs = i :: rest) :
    hostTurn s = deliver i { s with inputs := rest } := by
  simp [hostTurn, h]

/-- One host input either is reset, or leaves the configuration, RESULT, ITER_COUNT, the ROM, ERR, ERR_STICKY and any
OVERRUN already set as they were (20_memory.md R51 to R54, 70_reset_and_hazards.md R241). -/
theorem deliver_keeps (i : HostInput) (s : State) (hi : i ≠ .reset) :
    (deliver i s).cfg = s.cfg ∧ (deliver i s).result = s.result ∧ (deliver i s).iterCount = s.iterCount ∧
      (deliver i s).sbox = s.sbox ∧ (deliver i s).status.errSticky = s.status.errSticky ∧
      (s.status.overrun = true → (deliver i s).status.overrun = true) := by
  cases i with
  | reset => exact absurd rfl hi
  | read off width =>
    simp only [deliver, hostRead]
    split <;> exact ⟨rfl, rfl, rfl, rfl, rfl, id⟩
  | poll =>
    simp only [deliver]
    split <;> exact ⟨rfl, rfl, rfl, rfl, rfl, id⟩
  | write off width v =>
    simp only [deliver, hostWrite]
    split
    · next r _ =>
      cases r <;> simp only [writeReg, writeCmd] <;> try exact ⟨rfl, rfl, rfl, rfl, rfl, id⟩
      split
      · exact ⟨rfl, rfl, rfl, rfl, rfl, fun _ => rfl⟩
      · exact ⟨rfl, rfl, rfl, rfl, rfl, id⟩
    · exact ⟨rfl, rfl, rfl, rfl, rfl, id⟩

/-- While a command is in flight, no host input but reset touches the latch or BUSY (70_reset_and_hazards.md R241, R245). -/
theorem deliver_keeps_command_in_flight (i : HostInput) (s : State) (hi : i ≠ .reset) (hb : s.status.busy = true) :
    (deliver i s).latch = s.latch ∧ (deliver i s).status.busy = true ∧ (deliver i s).delay = s.delay := by
  cases i with
  | reset => exact absurd rfl hi
  | read off width =>
    simp only [deliver, hostRead]
    split <;> exact ⟨rfl, hb, rfl⟩
  | poll =>
    simp only [deliver]
    split <;> exact ⟨rfl, hb, rfl⟩
  | write off width v =>
    simp only [deliver, hostWrite]
    split
    · next r _ => cases r <;> simp only [writeReg, writeCmd, hb, if_true] <;> exact ⟨rfl, hb, rfl⟩
    · exact ⟨rfl, hb, rfl⟩

/-- The placed command is what the next step decodes (log entry 17). -/
theorem step_withFetchWord (s : State) (nbits w : Nat) :
    step (s.withFetchWord nbits w) =
      engineTurn { word := u64 (tableBits nbits w), arg0 := s.arg0, arg1 := s.arg1, arg2 := s.arg2 } (s.withFetchWord nbits w) :=
  step_engine rfl rfl

end Sys2Proof.Machine
end

