-- ==== Sys2Proof/Laws/Walk.lean ====
section
/-! SUPPORT. The cycle walker and one Feistel round: what they do, said once. -/

namespace Sys2Proof.Machine

/-- The walk loop answers the first application that lands in range, if one comes before the fuel ends. -/
theorem walkFrom_eq_some_iff (fn : Word → Word) (n : Word) :
    ∀ fuel cur k v q, walkFrom fn n fuel cur k = some (v, q) ↔
      ∃ i, i < fuel ∧ q = k + i + 1 ∧ v = fn^[i + 1] cur ∧ v.toNat < n.toNat ∧
        ∀ j, j < i → n.toNat ≤ (fn^[j + 1] cur).toNat
  | 0, cur, k, v, q => by simp [walkFrom]
  | fuel + 1, cur, k, v, q => by
    unfold walkFrom
    split
    · next h =>
      constructor
      · intro e
        injection e with e
        injection e with e1 e2
        subst e1 e2
        exact ⟨0, by omega, rfl, rfl, h, by simp⟩
      · rintro ⟨i, -, rfl, rfl, -, hj⟩
        cases i with
        | zero => rfl
        | succ i => exact absurd (hj 0 (by omega)) (by simpa using h)
    · next h =>
      rw [walkFrom_eq_some_iff fn n fuel (fn cur) (k + 1) v q]
      constructor
      · rintro ⟨i, hi, hq, hv, hlt, hj⟩
        refine ⟨i + 1, by omega, by omega, hv, hlt, fun j hj' => ?_⟩
        cases j with
        | zero => simpa using h
        | succ j => exact hj j (by omega)
      · rintro ⟨i, hi, hq, hv, hlt, hj⟩
        cases i with
        | zero => subst hv; exact absurd hlt h
        | succ i => exact ⟨i, by omega, by omega, hv, hlt, fun j hj' => hj (j + 1) (by omega)⟩

/-- The walk loop answers none exactly when no application within the fuel lands in range. -/
theorem walkFrom_eq_none_iff (fn : Word → Word) (n : Word) :
    ∀ fuel cur k, walkFrom fn n fuel cur k = none ↔ ∀ i, i < fuel → n.toNat ≤ (fn^[i + 1] cur).toNat
  | 0, cur, k => by simp [walkFrom]
  | fuel + 1, cur, k => by
    unfold walkFrom
    split
    · next h =>
      simp only [reduceCtorEq, false_iff, not_forall]
      exact ⟨0, by omega, by simpa using h⟩
    · next h =>
      rw [walkFrom_eq_none_iff fn n fuel (fn cur) (k + 1)]
      constructor
      · intro hi i hlt
        cases i with
        | zero => simpa using h
        | succ i => exact hi i (by omega)
      · exact fun hi i hlt => hi (i + 1) (by omega)

/-- The walk's answer, from its start (42_commands.md R160). -/
theorem walk_eq_some_iff (fn : Word → Word) (c : Cfg) (m v : Word) (k : Nat) :
    walk fn c m = some (v, k) ↔
      1 ≤ k ∧ k ≤ domainSize c ∧ v = fn^[k] m ∧ v.toNat < c.rangeLen.toNat ∧
        ∀ j, 1 ≤ j → j < k → c.rangeLen.toNat ≤ (fn^[j] m).toNat := by
  unfold walk
  rw [walkFrom_eq_some_iff]
  constructor
  · rintro ⟨i, hi, rfl, hv, hlt, hj⟩
    refine ⟨by omega, by omega, by simpa using hv, hlt, fun j h1 h2 => ?_⟩
    obtain ⟨j, rfl⟩ := Nat.exists_eq_add_of_le' h1
    exact hj j (by omega)
  · rintro ⟨h1, h2, hv, hlt, hj⟩
    obtain ⟨i, rfl⟩ := Nat.exists_eq_add_of_le' h1
    exact ⟨i, by omega, by omega, hv, hlt, fun j hj' => hj (j + 1) (by omega) (by omega)⟩

/-- The walk reaches its limit (42_commands.md R163). -/
theorem walk_eq_none_iff (fn : Word → Word) (c : Cfg) (m : Word) :
    walk fn c m = none ↔ ∀ j, 1 ≤ j → j ≤ domainSize c → c.rangeLen.toNat ≤ (fn^[j] m).toNat := by
  unfold walk
  rw [walkFrom_eq_none_iff]
  constructor
  · intro h j h1 h2
    obtain ⟨i, rfl⟩ := Nat.exists_eq_add_of_le' h1
    exact h i (by omega)
  · exact fun h i hi => h (i + 1) (by omega) (by omega)

@[simp] theorem encryptRound_ll (t : Sbox) (c : Cfg) (j : Nat) (h : Halves) : (encryptRound t c j h).ll = h.rr := rfl

@[simp] theorem encryptRound_rr (t : Sbox) (c : Cfg) (j : Nat) (h : Halves) :
    (encryptRound t c j h).rr = addMod h.ll (roundF t c.seed j h.rr) (modulus c j) := rfl

@[simp] theorem decryptRound_rr (t : Sbox) (c : Cfg) (j : Nat) (h : Halves) : (decryptRound t c j h).rr = h.ll := rfl

@[simp] theorem decryptRound_ll (t : Sbox) (c : Cfg) (j : Nat) (h : Halves) :
    (decryptRound t c j h).ll = subMod h.rr (roundF t c.seed j h.ll) (modulus c j) := rfl

theorem modulus_odd {c : Cfg} {j : Nat} (h : j % 2 = 1) : modulus c j = c.a := by simp [modulus, h]

theorem modulus_even {c : Cfg} {j : Nat} (h : j % 2 = 0) : modulus c j = c.b := by simp [modulus, h]

/-- The modulus of a round is never 0 when both moduli are at least 1. -/
theorem modulus_ne_zero {c : Cfg} (ha : 1 ≤ c.a.toNat) (hb : 1 ≤ c.b.toNat) (j : Nat) : (modulus c j).toNat ≠ 0 := by
  unfold modulus
  split <;> omega

end Sys2Proof.Machine
end

