-- ==== Sys2Proof/Tests/Slice0.lean ====
section
/-! SUPPORT. The model's own tests, their expected values from 95_test_vectors.md (or 30_encoding.md for the words), and for every
statement with hypotheses a witness that meets them all together. SBOX_ID and SBOX_AFF are the spec's illustrative tables. -/

namespace Sys2Proof.Tests

open Sys2Proof.Machine Sys2Proof.Spec

def sboxId : Sbox := Vector.ofFn fun i => BitVec.ofNat 8 i.val

def sboxAff : Sbox := Vector.ofFn fun i => BitVec.ofNat 8 (167 * i.val + 13)

def sboxOnes : Sbox := Vector.replicate 256 0xFF

/-- The outcome is a next state with a property. -/
def nextAnd (o : Host.Outcome State Fault Refusal) (p : State → Bool) : Bool :=
  match o with
  | .next s => p s
  | .fault _ => false
  | .refused _ => false

/-- A state right after the acceptance of a command, about to run it. -/
def loaded (c : Cfg) (w a0 a1 a2 : Word) : State :=
  { State.reset with
    cfg := c, sbox := sboxAff, status := Status.reset.accepted
    latch := some { word := w, arg0 := a0, arg1 := a1, arg2 := a2 } }

/-- An idle state with host inputs to come. -/
def idleWith (inputs : List HostInput) : State := { State.reset with sbox := sboxAff, inputs := inputs }

/-- A busy state whose engine step is `d` steps away. -/
def busyWith (d : Nat) (inputs : List HostInput) : State :=
  { loaded Cfg.reset 0x7 0 0 0 with delay := d, inputs := inputs }

/-- The state a command leaves. -/
def after (i : Instr) (s : State) : State :=
  match exec i s with
  | .next t => t
  | .fault _ => s
  | .refused _ => s

def cfg5 : Cfg := { rangeLen := 5, rounds := 14, seed := 0, a := 2, b := 3 }

def cfg5zero : Cfg := { rangeLen := 5, rounds := 0, seed := 0, a := 2, b := 3 }

def cfg5neg1 : Cfg := { rangeLen := 5, rounds := 0xFFFFFFFFFFFFFFFF, seed := 0, a := 2, b := 3 }

def cfg5neg2 : Cfg := { rangeLen := 5, rounds := 0xFFFFFFFFFFFFFFFE, seed := 0, a := 2, b := 3 }

def cfg10 : Cfg := { rangeLen := 10, rounds := 14, seed := 1234, a := 1, b := 11 }

def cfg16 : Cfg := { rangeLen := 16, rounds := 3, seed := 99, a := 2, b := 9 }

def cfg100 : Cfg := { rangeLen := 100, rounds := 64, seed := 0xFFFFFFFFFFFFFFFF, a := 8, b := 13 }

def cfg1 : Cfg := { rangeLen := 1, rounds := 14, seed := 0, a := 1, b := 2 }

def cfgTop : Cfg := { rangeLen := 0xFFFFFFFFFFFFFFF6, rounds := 0, seed := 0, a := 4294967293, b := 4294967299 }

/-! ## Well-formedness: for each check an ill-formed term that it refuses -/

theorem test_reservedClear_refuses_rsvd_bit_8 : reservedClear 0x0000000000000102 = false := by decide

theorem test_reservedClear_refuses_rsvd_bit_63 : reservedClear 0x8000000000000002 = false := by decide

theorem test_opcodeAssigned_refuses_zero : opcodeAssigned 0x0000000000000000 = false := by decide

theorem test_opcodeAssigned_refuses_eight : opcodeAssigned 0x0000000000000008 = false := by decide

theorem test_commandWordWellFormed_refuses : commandWordWellFormed 0x0000000000000102 = false := by decide

theorem test_commandWordWellFormed_accepts : commandWordWellFormed 0x0000000000000007 = true := by decide

theorem test_immediateFits_refuses_65_bits : (HostStmt.wr .arg0 (2 ^ 64)).wellFormed = false := by decide

theorem test_immediateFits_refuses_below_sint64 : (HostStmt.wr .arg0 (-(2 ^ 63) - 1)).wellFormed = false := by decide

theorem test_instr_wellFormed : Instr.sboxrd.wellFormed = true := by decide

/-! ## Decoding: the words of 30_encoding.md R72 bit by bit, RSVD then OPC -/

theorem test_decode_configure :
    decode (0b00000000000000000000000000000000000000000000000000000000#56 ++ 0b00000001#8 : BitVec 64) = .ok .configure := by
  decide

theorem test_decode_shuffle :
    decode (0b00000000000000000000000000000000000000000000000000000000#56 ++ 0b00000010#8 : BitVec 64) = .ok .shuffle := by
  decide

theorem test_decode_unshuffle :
    decode (0b00000000000000000000000000000000000000000000000000000000#56 ++ 0b00000011#8 : BitVec 64) = .ok .unshuffle := by
  decide

theorem test_decode_encrypt :
    decode (0b00000000000000000000000000000000000000000000000000000000#56 ++ 0b00000100#8 : BitVec 64) = .ok .encrypt := by
  decide

theorem test_decode_decrypt :
    decode (0b00000000000000000000000000000000000000000000000000000000#56 ++ 0b00000101#8 : BitVec 64) = .ok .decrypt := by
  decide

theorem test_decode_roundf :
    decode (0b00000000000000000000000000000000000000000000000000000000#56 ++ 0b00000110#8 : BitVec 64) = .ok .roundf := by
  decide

theorem test_decode_sboxrd :
    decode (0b00000000000000000000000000000000000000000000000000000000#56 ++ 0b00000111#8 : BitVec 64) = .ok .sboxrd := by
  decide

theorem test_decode_opc_zero_is_illegal : decode 0x0 = .error .unassignedOpcode := by decide

theorem test_decode_opc_ff_is_illegal : decode 0xFF = .error .unassignedOpcode := by decide

theorem test_decode_rsvd_is_looked_at_first : decode 0x8000000000000000 = .error .reservedBits := by decide

theorem test_decodeBytes_is_little_endian :
    decodeBytes [0x02, 0x00, 0x00, 0x00, 0x00, 0x00, 0x00, 0x00] = .ok .shuffle ∧
      decodeBytes [0x00, 0x00, 0x00, 0x00, 0x00, 0x00, 0x00, 0x02] = .error .reservedBits := by
  decide

theorem test_decodeBytes_refuses_four_bytes : decodeBytes [0x02, 0x00, 0x00, 0x00] = .error .notOneWord := by decide

theorem test_decodeTableWord :
    (List.range 9).map (decodeTableWord 64) =
      [none, some .configure, some .shuffle, some .unshuffle, some .encrypt, some .decrypt, some .roundf, some .sboxrd, none] := by
  decide

/-! ## Sub-units -/

/-- 95_test_vectors.md section 2.1. -/
theorem test_moduli :
    [0, 1, 2, 3, 6, 7, 12, 15, 16, 18, 24, 25, 99, 100, 255, 256, 1000, 65535, 65536, 0xFFFFFFFF, 0x100000000].map moduli =
      [(0, 0), (1, 2), (1, 3), (2, 2), (2, 4), (3, 3), (1, 13), (1, 16), (2, 9), (2, 10), (2, 13), (3, 9), (7, 15), (8, 13),
        (13, 20), (14, 19), (29, 35), (253, 260), (254, 259), (65533, 65540), (65534, 65539)] := by
  decide +kernel

theorem test_moduli_large :
    [0x10000008000000, 0x8000000000000000, 0xFFFFFFFFFFFFFFF6].map moduli =
      [(67108862, 67108869), (3037000497, 3037000503), (4294967293, 4294967299)] := by
  decide +kernel

theorem test_clampRounds :
    [1000, 65, 64, 63, 14, 1, 0, 0xFFFFFFFFFFFFFFFF, 0xFFFFFFFFFFFFFFFE, 0x7FFFFFFFFFFFFFFF, 0x8000000000000000].map clampRounds =
      [64, 64, 64, 63, 14, 1, 0, 0xFFFFFFFFFFFFFFFF, 0xFFFFFFFFFFFFFFFE, 64, 0x8000000000000000] := by
  decide

/-- 95_test_vectors.md section 2.2. -/
theorem test_addMod :
    addMod 0 0 1 = 0 ∧ addMod 1 5 1 = 0 ∧ addMod 2 1 3 = 0 ∧ addMod 2 0xFFFE007FFFFFFFFF 3 = 2 ∧
      addMod 4294967298 0xFFFE007FFFFFFFFF 4294967299 = 392839 := by
  decide

theorem test_subMod :
    subMod 5 2 3 = 0 ∧ subMod 2 5 3 = 0 ∧ subMod 0 1 3 = 2 ∧ subMod 1 7 3 = 0 ∧ subMod 0 0xFFFFFFFFFFFFFFFF 7 = 6 ∧
      subMod 4 0xFFFE007FFFFFFFFF 5 = 3 ∧ subMod 4294967298 0xFFFE007FFFFFFFFF 4294967299 = 4294574458 ∧ subMod 1 2 1 = 0 ∧
      subMod 1 5 7 = 3 := by
  decide

/-- 95_test_vectors.md section 2.3. -/
theorem test_mixTerm :
    [1, 8, 33, 63, 64].map (mixTerm 0x0123456789ABCDEF) =
      [0x02468ACF13579BDE, 0x23456789ABCDEF01, 0x13579BDE02468ACF, 0x8091A2B3C4D5E6F7, 0x0123456789ABCDEF] := by
  decide

theorem test_roundF_sboxId :
    roundF sboxId 0 1 0 = 0x0202000081810101 ∧ roundF sboxId 0 64 0 = 0x8080002060404040 ∧
      roundF sboxId 1234 1 7 = 0xA7A600693A53DA70 ∧ roundF sboxId 0xFFFFFFFFFFFFFFFF 2 0xFF = 0x04040001030202FD := by
  decide +kernel

theorem test_roundF_sboxAff :
    roundF sboxAff 0 1 0x0123456789ABCDEF = 0x1A7600340E73214F ∧ roundF sboxAff 1234 14 3 = 0x23220048F0E51186 ∧
      roundF sboxAff 0x0123456789ABCDEF 33 0x1122334455667788 = 0x4214004B30CF526C ∧
      roundF sboxOnes 5 9 3 = 0xFFFE007F007FFFFF := by
  decide +kernel

/-- 95_test_vectors.md section 2.4. -/
theorem test_encryptCore :
    [0, 4, 5].map (encryptCore sboxAff cfg5) = [1, 5, 2] ∧
      [0, 1, 2, 3, 4, 5].map (encryptCore sboxId cfg5neg1) = [0, 2, 1, 3, 2, 4] ∧
      [1, 103].map (encryptCore sboxId cfg100) = [57, 66] := by
  decide +kernel

theorem test_decryptCore :
    [0, 2, 5].map (decryptCore sboxAff cfg5) = [2, 5, 4] ∧
      [0, 1, 2, 3, 4, 5].map (decryptCore sboxId cfg5neg1) = [0, 2, 1, 3, 2, 4] ∧
      [0, 103].map (decryptCore sboxAff cfg100) = [16, 79] := by
  decide +kernel

/-- 95_test_vectors.md section 2.6. -/
theorem test_walk :
    walk (encryptCore sboxAff cfg16) cfg16 1 = some (14, 2) ∧ walk (decryptCore sboxAff cfg16) cfg16 14 = some (1, 2) ∧
      walk (encryptCore sboxId cfg10) cfg10 1 = some (8, 2) ∧
      walk (encryptCore sboxAff cfgTop) cfgTop 0xFFFFFFFFFFFFFFF5 = some (0xFFFFFFFFFFFFFFF5, 1) := by
  decide +kernel

/-- 42_commands.md R160 and 60_exceptions.md R201: a walk that lands nowhere within the limit sets ITER_COUNT, keeps RESULT and raises
WALK_LIMIT. -/
theorem test_walk_limit :
    walk (fun _ => 5) cfg5 0 = none ∧
      (completeWalk none (loaded cfg5 2 0 0 0)).iterCount = 6 ∧ (completeWalk none (loaded cfg5 2 0 0 0)).result = 0 ∧
      (completeWalk none (loaded cfg5 2 0 0 0)).status.word = 0x70E := by
  decide +kernel

/-! ## Commands: one step from the placed or latched word -/

theorem test_configure_boundary :
    nextAnd (step (loaded Cfg.reset 1 0xFFFFFFFFFFFFFFF6 1000 5))
        (fun t => t.cfg == { cfgTop with rounds := 64, seed := 5 } && t.status.word == 0x002) = true ∧
      nextAnd (step (loaded cfg5 1 0xFFFFFFFFFFFFFFF7 14 0)) (fun t => t.cfg == cfg5 && t.status.word == 0x60E) = true := by
  decide +kernel

theorem test_configure_one_has_b_two :
    nextAnd (step (loaded cfg5 1 1 0xFFFFFFFFFFFFFFFF 7))
      (fun t => t.cfg == { rangeLen := 1, rounds := 0xFFFFFFFFFFFFFFFF, seed := 7, a := 1, b := 2 }) = true := by
  decide +kernel

theorem test_shuffle_walks_past_the_range :
    nextAnd (step (loaded cfg100 2 14 0 0)) (fun t => t.result == 98 && t.iterCount == 2 && t.status.word == 0x002) = true := by
  decide +kernel

theorem test_shuffle_after_reset_is_index_range :
    nextAnd (step (State.reset.withFetchWord 64 2)) (fun t => t.status.word == 0x20E && t.result == 0 && t.iterCount == 0) = true := by
  decide

theorem test_unshuffle_inverts :
    nextAnd (step (loaded cfg100 3 98 0 0)) (fun t => t.result == 14 && t.iterCount == 2) = true := by
  decide +kernel

theorem test_unshuffle_out_of_range :
    nextAnd (step (loaded cfg10 3 0xFFFFFFFFFFFFFFFF 0 0)) (fun t => t.status.word == 0x20E) = true := by
  decide

theorem test_encrypt_accepts_beyond_the_range :
    nextAnd (step (loaded cfg5zero 4 5 0 0)) (fun t => t.result == 5 && t.status.word == 0x002) = true := by
  decide +kernel

theorem test_encrypt_domain_range : nextAnd (step (loaded cfg5zero 4 6 0 0)) (fun t => t.status.word == 0x30E) = true := by
  decide

theorem test_decrypt : nextAnd (step (loaded cfg5 5 2 0 0)) (fun t => t.result == 5 && t.iterCount == 0) = true := by
  decide +kernel

theorem test_decrypt_after_reset_is_domain_range :
    nextAnd (step (State.reset.withFetchWord 64 5)) (fun t => t.status.word == 0x30E) = true := by
  decide

theorem test_roundf_operands_are_x_and_j :
    nextAnd (step (loaded Cfg.reset 6 0x0123456789ABCDEF 1 0)) (fun t => t.result == 0x1A7600340E73214F) = true := by
  decide +kernel

theorem test_roundf_does_not_truncate :
    nextAnd (step (loaded Cfg.reset 6 0 0x8000000000000001 0)) (fun t => t.status.word == 0x40E && t.result == 0) = true := by
  decide

theorem test_sboxrd : nextAnd (step (loaded Cfg.reset 7 255 0 0)) (fun t => t.result == 0x66 && t.status.word == 0x002) = true := by
  decide +kernel

theorem test_sboxrd_does_not_truncate :
    nextAnd (step (loaded Cfg.reset 7 0x100000000 0 0)) (fun t => t.status.word == 0x50E) = true := by
  decide

theorem test_illegal_word_wins_over_operand_check :
    nextAnd (step (loaded Cfg.reset 0x102 99 0 0)) (fun t => t.status.word == 0x10E) = true := by
  decide

theorem test_success_keeps_err_sticky :
    nextAnd (step { loaded Cfg.reset 7 0 0 0 with status := { Status.reset.accepted with errSticky := true } })
      (fun t => t.status.word == 0x00A) = true := by
  decide +kernel

/-! ## Host accesses -/

theorem test_cmd_write_accepts :
    nextAnd (step (idleWith [.write 0x00 8 7])) (fun t => t.status.word == 0x001 && t.latch == some ⟨7, 0, 0, 0⟩) = true := by
  decide

theorem test_second_cmd_write_overruns :
    nextAnd (step (busyWith 1 [.write 0x00 8 2])) (fun t => t.status.word == 0x011 && t.latch == some ⟨7, 0, 0, 0⟩) = true := by
  decide

theorem test_write_to_result_is_ignored :
    nextAnd (step (idleWith [.write 0x28 8 123])) (fun t => t.result == 0 && t.responses == [.ack]) = true := by
  decide

theorem test_bus_errors :
    [HostInput.read 0x60 8, .read 0x78 8, .read 0x0C 8, .read 0x10 4, .write 0x10 16 1].map
        (fun i => nextAnd (step (idleWith [i]))
          (fun t => t.arg0 == 0 && (t.responses == [.busError 0x60] || t.responses == [.busError 0x78] ||
            t.responses == [.busError 0x0C] || t.responses == [.busError 0x10]))) =
      [true, true, true, true, true] := by
  decide

theorem test_cmd_reads_zero : nextAnd (step (busyWith 3 [.read 0x00 8])) (fun t => t.responses == [.data 0]) = true := by decide

theorem test_rounds_reads_twos_complement :
    nextAnd (step { idleWith [.read 0x38 8] with cfg := cfg5neg1 }) (fun t => t.responses == [.data 0xFFFFFFFFFFFFFFFF]) = true := by
  decide

theorem test_poll_stays_while_busy :
    nextAnd (step (busyWith 2 [.poll])) (fun t => t.inputs == [.poll] && t.responses == [.data 1] && t.delay == 1) = true := by
  decide

theorem test_reset_abandons_the_command :
    nextAnd (step (busyWith 2 [.reset, .poll]))
      (fun t => t.latch == none && t.status.word == 0 && t.inputs == [.poll] && t.sbox.get 255 == 0x66) = true := by
  decide +kernel

/-- 95_test_vectors.md section 3, P1: the bus accesses of `configure 5, 14, 0`. -/
theorem test_configure_expands :
    programInputs [.configure 5 14 0] =
      [.write 0x10 8 5, .write 0x18 8 14, .write 0x20 8 0, .write 0x00 8 1, .poll] := by
  decide

theorem test_roundf_expands_x_before_j :
    programInputs [.roundf (-1) 9] =
      [.write 0x10 8 9, .write 0x18 8 0xFFFFFFFFFFFFFFFF, .write 0x00 8 6, .poll, .read 0x28 8] := by
  decide

/-! ## Witnesses: each statement's hypotheses hold together somewhere, at the boundary values of their ranges -/

theorem witness_ResetLeavesEveryRegisterZero :
    ∃ (s : State) (rest : List HostInput), hostMovesNext s ∧ s.latch ≠ none ∧ s.inputs = .reset :: rest :=
  ⟨busyWith 2 [.reset], [], .inr (by decide), by decide, rfl⟩

theorem witness_EveryStepKeepsTheInvariant :
    ∃ s t : State, s.Inv ∧ step s = .next t :=
  ⟨loaded cfg5 7 0 0 0, _, by decide, rfl⟩

theorem witness_EveryStepKeepsTheInvariant_on_configure :
    ∃ s t : State, s.Inv ∧ step s = .next t ∧ t.cfg ≠ s.cfg :=
  ⟨loaded cfg5 1 16 3 99, _, by decide, rfl, by decide +kernel⟩

theorem witness_StepRunsTheDecodedCommand :
    ∃ (s : State) (c : Latched) (i : Instr), s.latch = some c ∧ s.delay = 0 ∧ decode c.word = .ok i ∧ i.wellFormed = true :=
  ⟨loaded cfg5 2 0 0 0, _, .shuffle, rfl, rfl, by decide, rfl⟩

theorem witness_IllegalWord_rsvd :
    ∃ (s : State) (c : Latched), s.latch = some c ∧ s.delay = 0 ∧ c.word.toNat / 2 ^ 8 ≠ 0 :=
  ⟨loaded cfg5 0x102 0 0 0, _, rfl, rfl, by decide⟩

theorem witness_IllegalWord_opc_zero :
    ∃ (s : State) (c : Latched), s.latch = some c ∧ s.delay = 0 ∧ c.word.toNat % 2 ^ 8 = 0x00 :=
  ⟨loaded cfg5 0 0 0 0, _, rfl, rfl, by decide⟩

theorem witness_IllegalWord_opc_eight :
    ∃ (s : State) (c : Latched), s.latch = some c ∧ s.delay = 0 ∧ c.word.toNat % 2 ^ 8 = 0x08 ∧ 0x08 ≤ c.word.toNat % 2 ^ 8 :=
  ⟨loaded cfg5 8 0 0 0, _, rfl, rfl, by decide, by decide⟩

theorem witness_IdleBlockKeepsAllItsState :
    ∃ s : State, s.StatusLegal ∧ s.status.busy = false ∧ s.inputs = [] :=
  ⟨State.reset, by decide, rfl, rfl⟩

theorem witness_CfgOverflow_last_accepted :
    ∃ (s : State) (c : Latched), s.latch = some c ∧ c.arg0 = 0xFFFFFFFFFFFFFFF6 :=
  ⟨loaded cfg5 1 0xFFFFFFFFFFFFFFF6 0 0, _, rfl, rfl⟩

theorem witness_CompletionIgnoresLatencyAndHostTraffic :
    ∃ (s : State) (c : Latched), s.latch = some c ∧ s.status.busy = true ∧ HostInput.reset ∉ s.inputs ∧ s.delay = 3 :=
  ⟨busyWith 3 [.write 0x00 8 2, .write 0x10 8 9, .poll], _, rfl, rfl, by decide, rfl⟩

theorem witness_HostReadReturnsRegister_idle :
    ∃ (s : State) (rest : List HostInput) (off : Offset) (v : Word), hostMovesNext s ∧ (off, v) ∈ readTable s ∧ s.inputs = .read off 8 :: rest :=
  ⟨idleWith [.read 0x58 8], [], 0x58, 0, .inl rfl, by decide, rfl⟩

theorem witness_HostReadReturnsRegister_busy :
    ∃ (s : State) (rest : List HostInput) (off : Offset) (v : Word), hostMovesNext s ∧ (off, v) ∈ readTable s ∧ s.inputs = .read off 8 :: rest :=
  ⟨busyWith 1 [.read 0x08 8], [], 0x08, 1, .inr (by decide), by decide, rfl⟩

theorem witness_ArgWrite_0 :
    ∃ (s : State) (rest : List HostInput) (v : Word), hostMovesNext s ∧ s.inputs = .write (argOffset 0) 8 v :: rest :=
  ⟨idleWith [.write 0x10 8 5], [], 5, .inl rfl, rfl⟩

theorem witness_ArgWrite_2 :
    ∃ (s : State) (rest : List HostInput) (v : Word), hostMovesNext s ∧ s.inputs = .write (argOffset 2) 8 v :: rest :=
  ⟨idleWith [.write 0x20 8 5], [], 5, .inl rfl, rfl⟩

theorem witness_ArgRead :
    ∃ (s : State) (rest : List HostInput), hostMovesNext s ∧ s.inputs = .read (argOffset 1) 8 :: rest :=
  ⟨idleWith [.read 0x18 8], [], .inl rfl, rfl⟩

theorem witness_ArgChange :
    ∃ s t : State, step s = .next t ∧ argReg t 1 ≠ argReg s 1 :=
  ⟨idleWith [.write 0x18 8 5], _, rfl, by decide⟩

theorem witness_CmdWriteWhenIdle :
    ∃ (s : State) (rest : List HostInput) (v : Word), hostMovesNext s ∧ s.inputs = .write 0x00 8 v :: rest ∧ s.status.busy = false :=
  ⟨idleWith [.write 0x00 8 1], [], 1, .inl rfl, rfl, rfl⟩

theorem witness_CmdWriteWhileBusy :
    ∃ (s : State) (rest : List HostInput) (v : Word), hostMovesNext s ∧ s.inputs = .write 0x00 8 v :: rest ∧ s.status.busy = true :=
  ⟨busyWith 1 [.write 0x00 8 1], [], 1, .inr (by decide), rfl, rfl⟩

theorem witness_OverrunStays :
    ∃ s t : State, s.status.overrun = true ∧ step s = .next t :=
  ⟨markOverrun (busyWith 1 []), _, rfl, rfl⟩

theorem witness_WritesToReadOnlyRegisters :
    ∃ (s : State) (rest : List HostInput) (off : Offset) (v : Word), hostMovesNext s ∧
      off ∈ ([0x08, 0x28, 0x30, 0x38, 0x40, 0x48, 0x50, 0x58] : List Offset) ∧ s.inputs = .write off 8 v :: rest :=
  ⟨idleWith [.write 0x48 8 9], [], 0x48, 9, .inl rfl, by decide, rfl⟩

theorem witness_IllegalAccess_width :
    ∃ (s : State) (rest : List HostInput) (off : Offset) (width : Nat) (v : Word), hostMovesNext s ∧ ¬legalAccess off width ∧
      (s.inputs = .read off width :: rest ∨ s.inputs = .write off width v :: rest) :=
  ⟨idleWith [.read 0x10 4], [], 0x10, 4, 1, .inl rfl, by unfold legalAccess; decide, .inl rfl⟩

theorem witness_IllegalAccess_alignment :
    ∃ (s : State) (rest : List HostInput) (off : Offset) (width : Nat) (v : Word), hostMovesNext s ∧ ¬legalAccess off width ∧
      (s.inputs = .read off width :: rest ∨ s.inputs = .write off width v :: rest) :=
  ⟨idleWith [.read 0x0C 8], [], 0x0C, 8, 1, .inl rfl, by unfold legalAccess; decide, .inl rfl⟩

theorem witness_IllegalAccess_reserved :
    ∃ (s : State) (rest : List HostInput) (off : Offset) (width : Nat) (v : Word), hostMovesNext s ∧ ¬legalAccess off width ∧
      (s.inputs = .read off width :: rest ∨ s.inputs = .write off width v :: rest) :=
  ⟨idleWith [.write 0x60 8 1], [], 0x60, 8, 1, .inl rfl, by unfold legalAccess; decide, .inr rfl⟩

theorem witness_LegalAccess_top :
    legalAccess 0x58 8 :=
  by unfold legalAccess; decide

theorem witness_PollReadsStatus :
    ∃ (s : State) (rest : List HostInput), hostMovesNext s ∧ s.inputs = .poll :: rest ∧ s.status.busy = true :=
  ⟨busyWith 1 [.poll], [], .inr (by decide), rfl, rfl⟩

theorem witness_WindowOutside :
    ∃ addr : Word, addr.toNat < base.toNat ∨ base.toNat + 128 ≤ addr.toNat :=
  by
  by_cases h : base.toNat = 0
  · exact ⟨128, .inr (by rw [h]; decide)⟩
  · exact ⟨0, .inl (by simpa using Nat.pos_of_ne_zero h)⟩

theorem witness_Configure_last_accepted :
    ∃ (s : State) (c : Latched), s.latch = some c ∧ c.arg0.toNat = 0xFFFFFFFFFFFFFFF6 ∧ c.arg0.toNat < 0xFFFFFFFFFFFFFFF7 :=
  ⟨loaded cfg5 1 0xFFFFFFFFFFFFFFF6 0 0, _, rfl, by decide, by decide⟩

theorem witness_Configure_first_overflow :
    ∃ (s : State) (c : Latched), s.latch = some c ∧ c.arg0.toNat = 0xFFFFFFFFFFFFFFF7 ∧ 0xFFFFFFFFFFFFFFF7 ≤ c.arg0.toNat :=
  ⟨loaded cfg5 1 0xFFFFFFFFFFFFFFF7 0 0, _, rfl, by decide, by decide⟩

theorem witness_PostAdjustment_least_length :
    ∃ n, n < 2 ^ 64 ∧ n ≠ 0 :=
  ⟨1, by decide, by decide⟩

theorem witness_PostAdjustment_largest_length :
    ∃ n, n < 2 ^ 64 ∧ n ≠ 0 :=
  ⟨2 ^ 64 - 1, by decide, by decide⟩

theorem witness_PostAdjustment_large_root :
    ∃ n, n < 2 ^ 64 ∧ 11 ≤ Nat.sqrt n :=
  ⟨121, by decide, Nat.le_sqrt.2 (by decide)⟩

theorem witness_ConfigureDependsOnOperandsAlone :
    ∃ (s₁ s₂ t₁ t₂ : State) (c₁ c₂ : Latched), s₁.latch = some c₁ ∧ s₂.latch = some c₂ ∧ c₁.arg0 = c₂.arg0 ∧ c₁.arg1 = c₂.arg1 ∧
      c₁.arg2 = c₂.arg2 ∧ exec .configure s₁ = .next t₁ ∧ exec .configure s₂ = .next t₂ ∧ s₁.cfg ≠ s₂.cfg :=
  ⟨loaded cfg5 1 9 1 2, loaded cfg10 1 9 1 2, _, _, _, _, rfl, rfl, rfl, rfl, rfl, rfl, rfl, by decide⟩

theorem witness_IndexRange_at_rangeLen :
    ∃ (s : State) (c : Latched), s.latch = some c ∧ s.cfg.rangeLen.toNat ≤ c.arg0.toNat ∧ c.arg0.toNat = s.cfg.rangeLen.toNat :=
  ⟨loaded cfg5 2 5 0 0, _, rfl, by decide, by decide⟩

theorem witness_IndexRange_at_reset :
    ∃ (s : State) (c : Latched), s.latch = some c ∧ s.cfg.rangeLen = 0 :=
  ⟨loaded Cfg.reset 2 0 0 0, _, rfl, rfl⟩

theorem witness_DomainRange_at_ab :
    ∃ (s : State) (c : Latched), s.latch = some c ∧ s.cfg.Legal ∧ s.cfg.a.toNat * s.cfg.b.toNat = c.arg0.toNat :=
  ⟨loaded cfg5 4 6 0 0, _, rfl, by decide, by decide⟩

theorem witness_RoundRange_at_0 :
    ∃ (s : State) (c : Latched), s.latch = some c ∧ c.arg1.toNat < 1 :=
  ⟨loaded cfg5 6 0 0 0, _, rfl, by decide⟩

theorem witness_RoundRange_at_65 :
    ∃ (s : State) (c : Latched), s.latch = some c ∧ 64 < c.arg1.toNat ∧ c.arg1.toNat = 65 :=
  ⟨loaded cfg5 6 0 65 0, _, rfl, by decide, by decide⟩

theorem witness_Sbox_last_index :
    ∃ (s : State) (c : Latched) (i : Fin 256), s.latch = some c ∧ c.arg0.toNat = i.val ∧ i.val = 255 :=
  ⟨loaded cfg5 7 255 0 0, _, 255, rfl, by decide, rfl⟩

theorem witness_Sbox_first_bad_index :
    ∃ (s : State) (c : Latched), s.latch = some c ∧ 255 < c.arg0.toNat ∧ c.arg0.toNat = 256 :=
  ⟨loaded cfg5 7 256 0 0, _, rfl, by decide, by decide⟩

theorem witness_Roundf_first_round :
    ∃ (s : State) (c : Latched), s.latch = some c ∧ c.arg1.toNat = 1 ∧ 1 ≤ c.arg1.toNat ∧ c.arg1.toNat ≤ 64 :=
  ⟨loaded cfg5 6 0 1 0, _, rfl, by decide, by decide, by decide⟩

theorem witness_Roundf_last_round :
    ∃ (s : State) (c : Latched), s.latch = some c ∧ c.arg1.toNat = 64 ∧ 1 ≤ c.arg1.toNat ∧ c.arg1.toNat ≤ 64 :=
  ⟨loaded cfg5 6 0 64 0, _, rfl, by decide, by decide, by decide⟩

theorem witness_RoundFunctionBitTable :
    ∃ j : Nat, 1 ≤ j ∧ j ≤ 64 ∧ j % 64 = 0 :=
  ⟨64, by decide, by decide, by decide⟩

theorem witness_RoundAddition :
    ∃ (l m : Word) (j : Nat), 1 ≤ j ∧ j ≤ 64 ∧ l.toNat < m.toNat ∧ m.toNat ≤ 2 ^ 32 + 3 ∧ m.toNat = 2 ^ 32 + 3 :=
  ⟨4294967298, 4294967299, 64, by decide, by decide, by decide, by decide, by decide⟩

theorem witness_SubMod :
    ∃ m : Word, 1 ≤ m.toNat ∧ m.toNat = 1 :=
  ⟨1, by decide, by decide⟩

theorem witness_Encrypt_last_in_domain :
    ∃ (s : State) (c : Latched), s.latch = some c ∧ s.cfg.Legal ∧ c.arg0.toNat < s.cfg.a.toNat * s.cfg.b.toNat ∧ c.arg0.toNat = 5 :=
  ⟨loaded cfg5 4 5 0 0, _, rfl, by decide, by decide, by decide⟩

theorem witness_Encrypt_no_rounds :
    ∃ (s : State) (c : Latched), s.latch = some c ∧ s.cfg.Legal ∧ c.arg0.toNat < s.cfg.a.toNat * s.cfg.b.toNat ∧ s.cfg.rounds = 0 :=
  ⟨loaded cfg5zero 4 5 0 0, _, rfl, by decide, by decide, rfl⟩

theorem witness_Decrypt_largest_domain :
    ∃ (s : State) (c : Latched), s.latch = some c ∧ s.cfg.Legal ∧ c.arg0.toNat < s.cfg.a.toNat * s.cfg.b.toNat ∧ c.arg0.toNat = 0xFFFFFFFFFFFFFFF6 :=
  ⟨loaded cfgTop 5 0xFFFFFFFFFFFFFFF6 0 0, _, rfl, by decide, by decide, by decide⟩

theorem witness_CoreResultsStayInTheDomain :
    ∃ (s t : State) (c : Latched) (i : Instr), s.latch = some c ∧ s.cfg.Legal ∧ (i = .encrypt ∨ i = .decrypt) ∧ exec i s = .next t ∧ t.status.err = false :=
  ⟨loaded cfg5 5 5 0 0, _, _, .decrypt, rfl, by decide, .inr rfl, rfl, by decide +kernel⟩

theorem witness_CoreCommandsAreInverse_encrypt :
    ∃ (s t u : State) (c d : Latched) (i : Instr), (i = .encrypt ∨ i = .decrypt) ∧ s.latch = some c ∧ s.cfg.Legal ∧ 1 ≤ s.cfg.rangeLen.toNat ∧
      0 ≤ s.cfg.rounds.toInt ∧ c.arg0.toNat < s.cfg.a.toNat * s.cfg.b.toNat ∧ exec i s = .next t ∧ u.cfg = t.cfg ∧ u.sbox = t.sbox ∧
      u.latch = some d ∧ d.arg0 = t.result :=
  ⟨loaded cfg5 4 5 0 0, _, loaded cfg5 5 2 0 0, _, _, .encrypt, .inl rfl, rfl, by decide, by decide, by decide, by decide, rfl, rfl, rfl, rfl, by decide +kernel⟩

theorem witness_CoreCommandsAreInverse_decrypt :
    ∃ (s t u : State) (c d : Latched) (i : Instr), (i = .encrypt ∨ i = .decrypt) ∧ s.latch = some c ∧ s.cfg.Legal ∧ 1 ≤ s.cfg.rangeLen.toNat ∧
      0 ≤ s.cfg.rounds.toInt ∧ c.arg0.toNat < s.cfg.a.toNat * s.cfg.b.toNat ∧ exec i s = .next t ∧ u.cfg = t.cfg ∧ u.sbox = t.sbox ∧
      u.latch = some d ∧ d.arg0 = t.result :=
  ⟨loaded cfg5 4 5 0 0, _, loaded cfg5 5 4 0 0, _, _, .decrypt, .inr rfl, rfl, by decide, by decide, by decide, by decide, rfl, rfl, rfl, rfl, by decide +kernel⟩

theorem witness_DegenerateRounds_even_0 :
    ∃ (s : State) (c : Latched), s.latch = some c ∧ s.cfg.Legal ∧ c.arg0.toNat < s.cfg.a.toNat * s.cfg.b.toNat ∧ s.cfg.rounds.toInt ≤ 0 ∧ s.cfg.rounds.toInt % 2 = 0 :=
  ⟨loaded cfg5zero 4 5 0 0, _, rfl, by decide, by decide, by decide, by decide⟩

theorem witness_DegenerateRounds_even_neg2 :
    ∃ (s : State) (c : Latched), s.latch = some c ∧ s.cfg.Legal ∧ c.arg0.toNat < s.cfg.a.toNat * s.cfg.b.toNat ∧ s.cfg.rounds.toInt ≤ 0 ∧ s.cfg.rounds.toInt % 2 = 0 :=
  ⟨loaded cfg5neg2 4 5 0 0, _, rfl, by decide, by decide, by decide, by decide⟩

theorem witness_DegenerateRounds_odd :
    ∃ (s : State) (c : Latched), s.latch = some c ∧ s.cfg.Legal ∧ c.arg0.toNat < s.cfg.a.toNat * s.cfg.b.toNat ∧ s.cfg.rounds.toInt ≤ 0 ∧ s.cfg.rounds.toInt % 2 = 1 :=
  ⟨loaded cfg5neg1 4 5 0 0, _, rfl, by decide, by decide, by decide, by decide⟩

theorem witness_CoreIsARotation_9 :
    ∃ (s : State) (c : Latched) (n : Nat), s.latch = some c ∧ 9 ≤ n ∧ n ≤ 15 ∧ s.cfg.rangeLen.toNat = n ∧ s.cfg.a.toNat = 1 ∧ s.cfg.b.toNat = n + 1 ∧
      s.cfg.rounds.toInt ≤ 64 ∧ c.arg0.toNat < n + 1 :=
  ⟨loaded { rangeLen := 9, rounds := 14, seed := 1, a := 1, b := 10 } 4 9 0 0, _, 9, rfl, by decide, by decide, by decide, by decide, by decide, by decide, by decide⟩

theorem witness_CoreIsARotation_15 :
    ∃ (s : State) (c : Latched) (n : Nat), s.latch = some c ∧ 9 ≤ n ∧ n ≤ 15 ∧ s.cfg.rangeLen.toNat = n ∧ s.cfg.a.toNat = 1 ∧ s.cfg.b.toNat = n + 1 ∧
      s.cfg.rounds.toInt ≤ 64 ∧ c.arg0.toNat < n + 1 :=
  ⟨loaded { rangeLen := 15, rounds := 14, seed := 1, a := 1, b := 16 } 4 15 0 0, _, 15, rfl, by decide, by decide, by decide, by decide, by decide, by decide, by decide⟩

theorem witness_WalkAlwaysLands_shuffle :
    ∃ (s : State) (c : Latched) (i : Instr), (i = .shuffle ∨ i = .unshuffle) ∧ s.latch = some c ∧ s.cfg.Legal ∧ 0 ≤ s.cfg.rounds.toInt ∧ c.arg0.toNat < s.cfg.rangeLen.toNat :=
  ⟨loaded cfg100 2 99 0 0, _, .shuffle, .inl rfl, rfl, by decide, by decide, by decide⟩

theorem witness_WalkAlwaysLands_unshuffle :
    ∃ (s : State) (c : Latched) (i : Instr), (i = .shuffle ∨ i = .unshuffle) ∧ s.latch = some c ∧ s.cfg.Legal ∧ 0 ≤ s.cfg.rounds.toInt ∧ c.arg0.toNat < s.cfg.rangeLen.toNat :=
  ⟨loaded cfg5zero 2 4 0 0, _, .unshuffle, .inr rfl, rfl, by decide, by decide, by decide⟩

theorem witness_WalkLandsWithinTwo :
    ∃ (s : State) (c : Latched) (i : Instr), (i = .shuffle ∨ i = .unshuffle) ∧ s.latch = some c ∧ s.cfg.Legal ∧ s.cfg.rounds.toInt < 0 ∧ c.arg0.toNat < s.cfg.rangeLen.toNat :=
  ⟨loaded cfg5neg1 2 4 0 0, _, .shuffle, .inl rfl, rfl, by decide, by decide, by decide⟩

theorem witness_WalkEnds_lands :
    ∃ (fn : Word → Word) (s : State) (m : Word) (k : Nat), k = s.cfg.a.toNat * s.cfg.b.toNat ∧ landsAt fn s.cfg.rangeLen m k :=
  ⟨fun x => x + 1, loaded cfg1 2 0 0 0, 0xFFFFFFFFFFFFFFFE, 2, by decide, by decide, by decide, fun i h1 h2 => by interval_cases i; decide⟩

theorem witness_WalkEnds_limit :
    ∃ (fn : Word → Word) (s : State) (m : Word), 1 ≤ s.cfg.a.toNat * s.cfg.b.toNat ∧ m.toNat < s.cfg.rangeLen.toNat ∧
      ∀ k, 1 ≤ k → k ≤ s.cfg.a.toNat * s.cfg.b.toNat → s.cfg.rangeLen.toNat ≤ (fn^[k] m).toNat :=
  ⟨fun _ => 5, loaded cfg5 2 0 0 0, 0, by decide, by decide, fun k h1 h2 => by
    have : k ≤ 6 := h2
    interval_cases k <;> decide⟩

theorem witness_WalkEnds_command :
    ∃ (s : State) (c : Latched) (i : Instr), (i = .shuffle ∨ i = .unshuffle) ∧ s.latch = some c ∧ c.arg0.toNat < s.cfg.rangeLen.toNat :=
  ⟨loaded cfg5 3 4 0 0, _, .unshuffle, .inr rfl, rfl, by decide⟩

theorem witness_ShuffleAndUnshuffleAreInverse_shuffle :
    ∃ (s t u : State) (c d : Latched) (i : Instr), (i = .shuffle ∨ i = .unshuffle) ∧ s.latch = some c ∧ s.cfg.Legal ∧
      0 ≤ s.cfg.rounds.toInt ∧ c.arg0.toNat < s.cfg.rangeLen.toNat ∧ exec i s = .next t ∧ u.cfg = t.cfg ∧ u.sbox = t.sbox ∧
      u.latch = some d ∧ d.arg0 = t.result :=
  let s := loaded cfg5 2 4 0 0
  ⟨s, after .shuffle s, { after .shuffle s with latch := some ⟨0, (after .shuffle s).result, 0, 0⟩ }, _, _, .shuffle, .inl rfl, rfl, by decide, by decide, by decide, rfl, rfl, rfl, rfl, rfl⟩

theorem witness_ShuffleAndUnshuffleAreInverse_unshuffle :
    ∃ (s t u : State) (c d : Latched) (i : Instr), (i = .shuffle ∨ i = .unshuffle) ∧ s.latch = some c ∧ s.cfg.Legal ∧
      0 ≤ s.cfg.rounds.toInt ∧ c.arg0.toNat < s.cfg.rangeLen.toNat ∧ exec i s = .next t ∧ u.cfg = t.cfg ∧ u.sbox = t.sbox ∧
      u.latch = some d ∧ d.arg0 = t.result :=
  let s := loaded cfg5 3 2 0 0
  ⟨s, after .unshuffle s, { after .unshuffle s with latch := some ⟨0, (after .unshuffle s).result, 0, 0⟩ }, _, _, .unshuffle, .inr rfl, rfl, by decide, by decide, by decide, rfl, rfl, rfl, rfl, rfl⟩

theorem witness_ShuffleIsABijection :
    ∃ (s : State) (c : Latched) (y : Word), s.latch = some c ∧ s.cfg.Legal ∧ 0 ≤ s.cfg.rounds.toInt ∧ y.toNat < s.cfg.rangeLen.toNat :=
  ⟨loaded cfg100 2 0 0 0, _, 99, rfl, by decide, by decide, by decide⟩

theorem witness_DegenerateRoundsWalkOnce :
    ∃ (s : State) (c : Latched) (i : Instr), (i = .shuffle ∨ i = .unshuffle) ∧ s.latch = some c ∧ s.cfg.Legal ∧ c.arg0.toNat < s.cfg.rangeLen.toNat ∧
      s.cfg.rounds.toInt ≤ 0 ∧ s.cfg.rounds.toInt % 2 = 0 :=
  ⟨loaded cfg5neg2 3 4 0 0, _, .unshuffle, .inr rfl, rfl, by decide, by decide, by decide, by decide⟩

theorem witness_OneValueRange :
    ∃ (s : State) (c : Latched) (i : Instr), (i = .shuffle ∨ i = .unshuffle) ∧ s.latch = some c ∧ s.cfg.rangeLen = 1 ∧ s.cfg.a = 1 ∧ s.cfg.b = 2 ∧
      0 ≤ s.cfg.rounds.toInt ∧ s.cfg.rounds.toInt ≤ 64 ∧ c.arg0 = 0 :=
  ⟨loaded cfg1 2 0 0 0, _, .shuffle, .inl rfl, rfl, rfl, rfl, rfl, by decide, by decide, rfl⟩

theorem witness_NegativeOddRounds :
    ∃ (s t : State) (c : Latched) (seed : Word), s.latch = some c ∧ s.cfg = { rangeLen := 5, rounds := 0xFFFFFFFFFFFFFFFF, seed := seed, a := 2, b := 3 } ∧
      (c.arg0 = 1 ∨ c.arg0 = 4) ∧ exec .shuffle s = .next t ∧ t.status.err = false :=
  ⟨loaded cfg5neg1 2 4 0 0, _, _, 0, rfl, rfl, .inr rfl, rfl, by decide +kernel⟩

theorem witness_CompletionWrites_error :
    ∃ (s t : State) (c : Latched), s.latch = some c ∧ s.delay = 0 ∧ step s = .next t ∧ t.status.err = true :=
  ⟨loaded cfg5 2 5 0 0, _, _, rfl, rfl, rfl, by decide +kernel⟩

theorem witness_CompletionWrites_success :
    ∃ (s t : State) (c : Latched), s.latch = some c ∧ s.delay = 0 ∧ step s = .next t ∧ t.status.err = false ∧ c.word.toNat ≠ 1 ∧
      c.word.toNat ≠ 2 ∧ c.word.toNat ≠ 3 :=
  ⟨loaded cfg5 6 5 1 0, _, _, rfl, rfl, rfl, by decide +kernel, by decide, by decide, by decide⟩

theorem witness_CompletionWrites_configure :
    ∃ (s t : State) (c : Latched), s.latch = some c ∧ s.delay = 0 ∧ step s = .next t ∧ t.status.err = false ∧ c.word.toNat = 1 :=
  ⟨loaded cfg5 1 7 14 3, _, _, rfl, rfl, rfl, by decide +kernel, by decide⟩

theorem witness_OnlyConfigureOrReset :
    ∃ s t : State, step s = .next t ∧ t.cfg ≠ s.cfg :=
  ⟨loaded cfg5 1 16 3 99, _, rfl, by decide +kernel⟩

theorem witness_ResultChanges :
    ∃ s t : State, step s = .next t ∧ t.result ≠ s.result :=
  ⟨loaded cfg5 7 0 0 0, _, rfl, by decide +kernel⟩

theorem witness_IterCountChanges :
    ∃ s t : State, step s = .next t ∧ t.iterCount ≠ s.iterCount :=
  ⟨loaded cfg5 2 0 0 0, _, rfl, by decide +kernel⟩

theorem witness_ErrSticky :
    ∃ s t : State, step s = .next t ∧ s.status.errSticky = true ∧ s.latch ≠ none ∧ s.delay = 0 ∧ t.status.err = true :=
  ⟨{ loaded cfg5 0 0 0 0 with status := { Status.reset.accepted with errSticky := true } }, _, rfl, rfl, by decide, rfl, by decide +kernel⟩

theorem witness_AnswersDepend :
    ∃ (i : Instr) (s₁ s₂ t₁ t₂ : State) (c : Latched), s₁.latch = some c ∧ s₂.latch = some c ∧ s₁.cfg = s₂.cfg ∧ s₁.sbox = s₂.sbox ∧
      exec i s₁ = .next t₁ ∧ exec i s₂ = .next t₂ ∧ t₁.status.err = false ∧ i ≠ .configure ∧ (i = .shuffle ∨ i = .unshuffle) ∧
      t₁.status.errcode ≠ .indexRange ∧ s₁.result ≠ s₂.result :=
  ⟨.shuffle, loaded cfg5 2 0 0 0, { loaded cfg5 2 0 0 0 with result := 9 }, _, _, _, rfl, rfl, rfl, rfl, rfl, rfl, by decide +kernel, by decide,
    .inl rfl, by decide +kernel, by decide⟩

theorem witness_DecodeAgree :
    ∃ (w : Word) (i : Instr) (bs : List Byte), i.wellFormed = true ∧ decode w = .ok i ∧ bs.length ≠ 8 :=
  ⟨7, .sboxrd, [], rfl, by decide, by decide⟩

end Sys2Proof.Tests
end

section
/-! What a decoded word is, what a host turn keeps, and from them the proof about RESULT (10_state.md R27). -/

namespace Sys2Proof.Machine

open Sys2Proof.Spec

/-- A word decodes to a command only when the whole word is its opcode (30_encoding.md R72, R74). -/
theorem toNat_eq_opcodeNumber_of_decode {w : Word} {i : Instr} (h : decode w = .ok i) : w.toNat = opcodeNumber i := by
  have opcode {opc : Byte} (hi : instrOfOpcode opc = some i) : opc.toNat = opcodeNumber i := by
    revert hi
    revert opc
    cases i <;> decide
  have split_word : w.toNat = (rsvdField w).toNat * 256 + (opcField w).toNat := by
    have := w.isLt
    simp only [rsvdField, opcField, BitVec.extractLsb'_toNat, Nat.shiftRight_eq_div_pow]
    omega
  unfold decode at h
  split at h
  · cases h
  · next hr =>
    split at h
    · next j hj =>
      cases h
      rw [split_word, not_not.1 hr, opcode hj]
      simp
    · cases h

/-- A host turn that takes no reset keeps what `deliver_keeps` lists. -/
theorem hostTurn_keeps {s : State} (h : ∀ rest, s.inputs ≠ .reset :: rest) :
    (hostTurn s).cfg = s.cfg ∧ (hostTurn s).result = s.result ∧ (hostTurn s).iterCount = s.iterCount ∧
      (hostTurn s).sbox = s.sbox ∧ (hostTurn s).status.errSticky = s.status.errSticky ∧
      (s.status.overrun = true → (hostTurn s).status.overrun = true) := by
  cases hin : s.inputs with
  | nil =>
    rw [hostTurn_nil hin]
    exact ⟨rfl, rfl, rfl, rfl, rfl, id⟩
  | cons i rest =>
    rw [hostTurn_cons hin]
    exact deliver_keeps i _ fun hi => h rest (hi ▸ hin)

/-- A host turn changes RESULT only by taking a reset. -/
theorem reset_of_hostTurn_result_ne {s : State} (h : (hostTurn s).result ≠ s.result) :
    ∃ rest, s.inputs = .reset :: rest := by
  by_contra hno
  obtain ⟨-, hresult, -⟩ := hostTurn_keeps (not_exists.1 hno)
  exact h hresult

/-- A meaning that changes RESULT is not CONFIGURE's, and completes without error. -/
theorem exec_result_ne {i : Instr} {s t : State} (h : exec i s = .next t) (hr : t.result ≠ s.result) :
    i ≠ .configure ∧ t.status.done = true ∧ t.status.err = false := by
  obtain ⟨c, -, ⟨e, -, -, rfl⟩ | ⟨-, rfl⟩ | ⟨-, cfg, -, rfl⟩ | ⟨hi, v, k, rfl⟩ | ⟨hi, -, -, v, rfl⟩⟩ := exec_cases h
  · exact absurd rfl hr
  · exact absurd rfl hr
  · exact absurd rfl hr
  · exact ⟨by rcases hi with rfl | rfl <;> decide, rfl, rfl⟩
  · exact ⟨hi, rfl, rfl⟩

/-- Every command but CONFIGURE has an opcode from 2 to 7 (30_encoding.md R72). -/
theorem opcodeNumber_of_ne_configure {i : Instr} (h : i ≠ .configure) : 2 ≤ opcodeNumber i ∧ opcodeNumber i ≤ 7 := by
  cases i with
  | configure => exact absurd rfl h
  | _ => decide

/-- Settles O47: of the four things a step can be, an illegal word keeps RESULT, a command changes it only as `exec_result_ne`
says, and a host turn only by reset. -/
theorem resultChangesOnlyAtSuccessfulCompletion : Obligations.ResultChangesOnlyAtSuccessfulCompletion := by
  intro s t hstep hr
  obtain ⟨c, i, hl, hd, hdec, hexec⟩ | ⟨c, r, -, -, -, rfl⟩ | ⟨hl, rfl⟩ | ⟨c, -, hd, rfl⟩ := step_cases hstep
  · obtain ⟨hi, hdone, herr⟩ := exec_result_ne hexec hr
    obtain ⟨hlo, hhi⟩ := opcodeNumber_of_ne_configure hi
    rw [← toNat_eq_opcodeNumber_of_decode hdec] at hlo hhi
    exact .inl ⟨c, hl, hd, hlo, hhi, hdone, herr⟩
  · exact absurd rfl hr
  · exact .inr ⟨.inl hl, reset_of_hostTurn_result_ne hr⟩
  · exact .inr ⟨.inr hd, reset_of_hostTurn_result_ne (s := { s with delay := s.delay - 1 }) hr⟩

end Sys2Proof.Machine
end

section
/-! What a host access meets when it comes next, the read table by register, and from them the proof about host reads
(20_memory.md R51). -/

namespace Sys2Proof.Machine

open Sys2Proof.Spec

/-- When a host moves next, the step takes the head input and delivers it (20_memory.md R61). -/
theorem step_eq_deliver_taken {s : State} {i : HostInput} {rest : List HostInput} (hm : hostMovesNext s)
    (hin : s.inputs = i :: rest) : step s = .next (deliver i (taken s rest)) := by
  rcases Option.eq_none_or_eq_some s.latch with hl | ⟨c, hl⟩
  · rw [step_idle hl, hostTurn_cons hin, taken, if_pos hl]
  · have hne : s.latch ≠ none := by simp [hl]
    have hd : s.delay ≠ 0 := hm.resolve_left hne
    rw [step_waiting hl hd, hostTurn_cons (s := { s with delay := s.delay - 1 }) hin, taken, if_neg hne]

/-- A legal read is answered with the register's value, and only the record of the answer changes. -/
theorem deliver_read_regOffset (r : RegName) (s : State) :
    deliver (.read (regOffset r) 8) s = answered (.data (readReg r s)) s := by
  simp only [deliver, hostRead, accessTarget_regOffset]
  rfl

/-- Taking an input from the queue shows in no register. -/
@[simp] theorem readReg_taken (r : RegName) (s : State) (rest : List HostInput) :
    readReg r (taken s rest) = readReg r s := by
  cases r <;> rfl

/-- STATUS read as a number has its fields at their bit places (10_state.md R26). -/
theorem status_word_eq_ofNat_statusNumber (t : Status) : t.word = BitVec.ofNat 64 (statusNumber t) := by
  obtain ⟨busy, done, err, errSticky, overrun, errcode⟩ := t
  cases errcode <;> revert busy done err errSticky overrun <;> decide

/-- The read table is the list of the registers in slot order, each with its offset and its value. -/
theorem readTable_eq_map (s : State) : readTable s = slotOrder.map fun r => (regOffset r, readReg r s) := by
  simp only [slotOrder, List.map, readReg, status_word_eq_ofNat_statusNumber]
  rfl

/-- Settles O12: a row of the table is a register at its offset, and the read of it is delivered as
`deliver_read_regOffset` says. -/
theorem hostReadReturnsRegisterAndChangesNothing : Obligations.HostReadReturnsRegisterAndChangesNothing := by
  intro s rest off v hm hrow hin
  rw [readTable_eq_map, List.mem_map] at hrow
  obtain ⟨r, -, ⟨⟩⟩ := hrow
  rw [step_eq_deliver_taken hm hin, deliver_read_regOffset, readReg_taken]

end Sys2Proof.Machine
end

section
/-! What the encoder answers, and from it and the decoder's lemma the proof about the opcode map (30_encoding.md R72). -/

namespace Sys2Proof.Machine

open Sys2Proof.Spec

/-- Every command's word has what its law in `Laws.Encoding` lists. -/
theorem encoding_statement (i : Instr) : Laws.Encoding.Statement i := by
  cases i with
  | configure => exact Laws.Encoding.configure
  | shuffle => exact Laws.Encoding.shuffle
  | unshuffle => exact Laws.Encoding.unshuffle
  | encrypt => exact Laws.Encoding.encrypt
  | decrypt => exact Laws.Encoding.decrypt
  | roundf => exact Laws.Encoding.roundf
  | sboxrd => exact Laws.Encoding.sboxrd

@[simp] theorem decode_encode (i : Instr) : decode (encode i) = .ok i := by
  obtain ⟨-, -, -, -, hdec, -⟩ := encoding_statement i
  exact hdec

@[simp] theorem toNat_encode (i : Instr) : (encode i).toNat = opcodeNumber i := by
  cases i <;> rfl

/-- Settles O4: a word that decodes is its opcode by the decoder's two checks; a word that is the opcode of a command is
that command's encoding, which decodes to it. -/
theorem wordDecodesToCommandExactlyByOpcodeMap : Obligations.WordDecodesToCommandExactlyByOpcodeMap := by
  intro w i
  constructor
  · exact toNat_eq_opcodeNumber_of_decode
  · intro hw
    have henc : w = encode i := BitVec.eq_of_toNat_eq (hw.trans (toNat_encode i).symm)
    rw [henc, decode_encode]

end Sys2Proof.Machine
end

section
/-! Where the exact product of the moduli stays below `2^64` (40_configure.md R107), and from it and `moduli_spec` the proof about
CONFIGURE's construction (R100 to R105). -/

namespace Sys2Proof.Machine

open Sys2Proof.Spec

/-- The model's starting moduli are the specified ones (40_configure.md R102 to R104). -/
theorem startModuli_eq {n : Nat} (hn : n < 2 ^ 64) : startModuli n = (startA n, startB n) := by
  rcases Nat.lt_or_ge n 9 with h | h
  · interval_cases n <;> rfl
  · obtain ⟨k, rfl⟩ := Nat.exists_eq_add_of_le' h
    rw [startModuli_of_nine_le h, isqrt_eq_sqrt hn]
    rfl

/-- The moduli are the specified ones after the post-adjustment (40_configure.md R105). -/
theorem finalModuli_moduli {n : Nat} (hn : n < 2 ^ 64) : finalModuli n (moduli n).1 (moduli n).2 := by
  rcases Nat.eq_zero_or_pos n with rfl | hpos
  · exact .inl ⟨rfl, rfl, rfl⟩
  · obtain ⟨ha, hb, hcover, -, hleast⟩ := moduli_spec hpos.ne' hn
    rw [startModuli_eq hn] at ha hb hleast
    refine .inr ⟨hpos.ne', ha, hb, hcover, fun b' hstart hlt => ?_⟩
    rw [ha]
    exact Nat.not_lt.1 fun hc => absurd (hleast b' hstart hc) (Nat.not_le.2 hlt)

/-- For a root `r` from 3 to `2^32 - 2`, `a = r - 2` with `b = 2^32 + 3` covers every `n` below `(r + 1)^2`: the difference of the
two sides is concave in `r` and positive at both ends. -/
theorem square_le_cover {r : Nat} (hmin : 3 ≤ r) (hmax : r ≤ 0xFFFFFFFE) :
    (r + 1) * (r + 1) ≤ (r - 2) * 0x100000003 := by
  obtain ⟨t, rfl⟩ := Nat.exists_eq_add_of_le hmin
  obtain ⟨u, hu⟩ := Nat.exists_eq_add_of_le hmax
  rw [show 3 + t - 2 = t + 1 by omega]
  nlinarith [Nat.zero_le (t * u)]

/-- Up to the last accepted operand the start lies within the largest moduli `(2^32 - 3, 2^32 + 3)`, and `b = 2^32 + 3` covers
`n`; the two moduli multiply to `2^64 - 9`, the first refused operand. -/
theorem startModuli_within_largest {n : Nat} (hpos : 0 < n) (hn : n < 0xFFFFFFFFFFFFFFF7) :
    (startModuli n).1 ≤ 0xFFFFFFFD ∧ (startModuli n).2 ≤ 0x100000003 ∧ n < (startModuli n).1 * 0x100000003 := by
  rcases Nat.lt_or_ge n 9 with h | h
  · interval_cases n <;> decide
  · have hn64 : n < 2 ^ 64 := by omega
    have hmin : 3 ≤ isqrt n := by
      rw [isqrt_eq_sqrt hn64]
      exact Nat.le_sqrt.2 h
    have hmax : isqrt n ≤ 0xFFFFFFFF := by
      rw [isqrt_eq_sqrt hn64]
      exact Nat.le_of_lt_succ (Nat.sqrt_lt.2 hn64)
    rw [startModuli_of_nine_le h]
    refine ⟨by simp only; omega, by simp only; omega, ?_⟩
    rcases Nat.eq_or_lt_of_le hmax with htop | hlt
    · rw [htop]
      exact hn
    · exact (isqrt_spec hn64).2.trans_le (square_le_cover hmin (by omega))

/-- From the first refused operand on, the start is `(2^32 - 3, 2^32 + 2)`. -/
theorem startModuli_of_overflow {n : Nat} (h : 0xFFFFFFFFFFFFFFF7 ≤ n) (hn : n < 2 ^ 64) :
    startModuli n = (0xFFFFFFFD, 0x100000002) := by
  have hroot : isqrt n = 0xFFFFFFFF := by
    rw [isqrt_eq_sqrt hn]
    exact (Nat.eq_sqrt.2 ⟨by omega, by omega⟩).symm
  rw [startModuli_of_nine_le (by omega), hroot]

/-- The exact product of the moduli stays below `2^64` exactly up to the last accepted operand (40_configure.md R107). -/
theorem moduli_product_lt_iff {n : Nat} (hn : n < 2 ^ 64) :
    (moduli n).1 * (moduli n).2 < 2 ^ 64 ↔ n < 0xFFFFFFFFFFFFFFF7 := by
  rcases Nat.eq_zero_or_pos n with rfl | hpos
  · decide
  obtain ⟨ha, -, hcover, -, hleast⟩ := moduli_spec hpos.ne' hn
  constructor
  · intro hlt
    by_contra hge
    rw [startModuli_of_overflow (Nat.not_lt.1 hge) hn] at ha
    rw [ha] at hlt hcover
    omega
  · intro hlt
    obtain ⟨hamax, hbstart, hfits⟩ := startModuli_within_largest hpos hlt
    calc (moduli n).1 * (moduli n).2 ≤ 0xFFFFFFFD * 0x100000003 :=
          Nat.mul_le_mul (ha.trans_le hamax) (hleast _ hbstart hfits)
      _ < 2 ^ 64 := by norm_num

/-- CONFIGURE's construction below the overflow (40_configure.md R100). -/
theorem construct_of_lt {n : Word} (req seed : Word) (h : n.toNat < 0xFFFFFFFFFFFFFFF7) :
    construct n req seed = some
      { rangeLen := n, rounds := clampRounds req, seed := seed, a := u64 (moduli n.toNat).1, b := u64 (moduli n.toNat).2 } :=
  if_neg (Nat.not_le.2 ((moduli_product_lt_iff n.isLt).2 h))

/-- CONFIGURE's construction from the first refused operand on (40_configure.md R107). -/
theorem construct_of_overflow {n : Word} (req seed : Word) (h : 0xFFFFFFFFFFFFFFF7 ≤ n.toNat) :
    construct n req seed = none :=
  if_pos (Nat.not_lt.1 fun hlt => absurd ((moduli_product_lt_iff n.isLt).1 hlt) (Nat.not_lt.2 h))

/-- Settles O20: the construction answers exactly below the first refused operand, with the moduli `finalModuli` names, and the
completion actions are those of `succeeded` and `failed`. -/
theorem configureBuildsTheSpecifiedConfiguration : Obligations.ConfigureBuildsTheSpecifiedConfiguration := by
  refine ⟨decode_encode .configure, fun s c hc => ⟨fun hlt => ?_, fun hge => ?_⟩⟩
  · refine ⟨_, _, finalModuli_moduli c.arg0.isLt, (moduli_product_lt_iff c.arg0.isLt).2 hlt, ?_⟩
    rw [exec_configure hc, construct_of_lt _ _ hlt]
    rfl
  · rw [exec_configure hc, construct_of_overflow _ _ hge]
    rfl

end Sys2Proof.Machine
end

section
/-! The datapath's functions against the spec's on numbers, the bounds of the Feistel halves, and from them the proof about DECRYPT
(41_datapath.md R121 to R142, 42_commands.md R172). -/

namespace Sys2Proof.Machine

open Sys2Proof.Spec

/-- A lane is the low byte of the shifted operand, the seed and the round mixed (41_datapath.md R123). -/
theorem lane_toNat (rr seed : Word) (j n : Nat) :
    (lane rr seed j n).toNat = (rr >>> (8 * n) ^^^ seed ^^^ BitVec.ofNat 64 j).toNat % 256 := by
  rw [lane, shr64_eq_ushiftRight, BitVec.toNat_setWidth, BitVec.toNat_and]
  exact (congrArg (· % 2 ^ 8) (Nat.and_two_pow_sub_one_eq_mod _ 8)).trans (Nat.mod_mod _ _)

/-- The model's round function is the spec's pseudocode (41_datapath.md R121). -/
theorem roundF_eq_roundFunction (t : Sbox) (seed : Word) (j : Nat) (x : Word) :
    roundF t seed j x = roundFunction t seed j x := by
  simp only [roundF, recombine, mixed, shl64_eq_shiftLeft, shr64_eq_ushiftRight, sboxAt, zext64, lane_toNat]
  rfl

theorem modulus_toNat (c : Cfg) (j : Nat) : (modulus c j).toNat = roundModulus c j := by
  rw [modulus, roundModulus, apply_ite BitVec.toNat]

/-- A modulus depends on the parity of its round only (41_datapath.md R128). -/
theorem modulus_add_two (c : Cfg) (j : Nat) : modulus c (j + 2) = modulus c j := by
  simp [modulus]

theorem subMod_toNat_eq_subModNumber (r t m : Word) (hm : m.toNat ≠ 0) :
    (subMod r t m).toNat = subModNumber r.toNat t.toNat m.toNat := by
  have hlt : (t.toNat - r.toNat) % m.toNat < m.toNat := Nat.mod_lt _ (Nat.pos_of_ne_zero hm)
  have hiff : m.toNat - (t.toNat - r.toNat) % m.toNat = m.toNat ↔ (t.toNat - r.toNat) % m.toNat = 0 := by omega
  simp only [subMod_toNat r t m hm, subModNumber, hiff]

/-- Bit 0 of the stored round count is its parity as a signed number (00_scope.md R13). -/
theorem odd_rounds_iff (c : Cfg) : odd c.rounds = true ↔ roundsOdd c := by
  have hbit : odd c.rounds = decide (c.rounds.toNat % 2 = 1) := by
    simp [odd, BitVec.getLsbD, Nat.testBit_zero]
  rw [hbit, decide_eq_true_iff, roundsOdd, BitVec.toInt_eq_toNat_cond]
  split <;> omega

theorem roundCount_eq_roundsRun (c : Cfg) : roundCount c = roundsRun c := rfl

/-- When rounds run at all, their number has the parity of the stored count. -/
theorem odd_rounds_iff_roundCount {c : Cfg} (h : 0 < roundCount c) : odd c.rounds = true ↔ roundCount c % 2 = 1 := by
  rw [odd_rounds_iff, roundsOdd]
  rw [roundCount_eq_roundsRun, roundsRun] at h ⊢
  omega

/-- A legal configuration with an operand in its domain holds a range (10_state.md R21). -/
theorem ranged_of_lt_domain {c : Cfg} {m : Nat} (hc : c.Legal) (hm : m < c.a.toNat * c.b.toNat) : c.Ranged := by
  obtain ⟨⟨-, ha, -⟩ | hr, -⟩ := hc
  · simp [ha] at hm
  · exact hr

/-- The halves after round `j` of Encrypt and before round `j` of Decrypt, within the moduli of rounds `j` and `j + 1`
(41_datapath.md R136). -/
def HalvesFit (c : Cfg) (j : Nat) (h : Halves) : Prop :=
  h.rr.toNat < (modulus c j).toNat ∧ h.ll.toNat < (modulus c (j + 1)).toNat

theorem halvesFit_odd_iff {c : Cfg} {j : Nat} {h : Halves} (hj : j % 2 = 1) :
    HalvesFit c j h ↔ h.rr.toNat < c.a.toNat ∧ h.ll.toNat < c.b.toNat := by
  rw [HalvesFit, modulus_odd hj, modulus_even (by omega)]

theorem halvesFit_even_iff {c : Cfg} {j : Nat} {h : Halves} (hj : j % 2 = 0) :
    HalvesFit c j h ↔ h.rr.toNat < c.b.toNat ∧ h.ll.toNat < c.a.toNat := by
  rw [HalvesFit, modulus_even hj, modulus_odd (by omega)]

theorem decryptRound_fits {t : Sbox} {c : Cfg} {j : Nat} {h : Halves} (hc : c.Ranged) (hf : HalvesFit c (j + 1) h) :
    HalvesFit c j (decryptRound t c (j + 1) h) := by
  obtain ⟨-, ha, hab, -⟩ := hc
  obtain ⟨-, hll⟩ := hf
  rw [modulus_add_two] at hll
  exact ⟨hll, subMod_lt _ _ _ (modulus_ne_zero ha (ha.trans hab) _)⟩

theorem decryptRounds_fits {t : Sbox} {c : Cfg} (hc : c.Ranged) (n : Nat) (h : Halves) (hf : HalvesFit c n h) :
    HalvesFit c 0 (decryptRounds t c n h) := by
  induction n generalizing h with
  | zero => exact hf
  | succ j ih => exact ih _ (decryptRound_fits hc hf)

/-- Halves that fit, of either parity, combine below the domain size; for the odd one this needs `a ≤ b`. -/
theorem combine_exact_lt_domain {c : Cfg} {j : Nat} {h : Halves} (hc : c.Ranged) (hf : HalvesFit c j h) :
    c.a.toNat * h.rr.toNat + h.ll.toNat < c.a.toNat * c.b.toNat := by
  obtain ⟨-, -, hab, -⟩ := hc
  rcases Nat.mod_two_eq_zero_or_one j with hj | hj
  · obtain ⟨hrr, hll⟩ := (halvesFit_even_iff hj).1 hf
    nlinarith
  · obtain ⟨hrr, hll⟩ := (halvesFit_odd_iff hj).1 hf
    nlinarith

/-- Combine is exact on halves that fit (41_datapath.md R130). -/
theorem combine_toNat {c : Cfg} {j : Nat} {h : Halves} (hc : c.Ranged) (hf : HalvesFit c j h) :
    (combine c h.rr h.ll).toNat = c.a.toNat * h.rr.toNat + h.ll.toNat := by
  have hlt := combine_exact_lt_domain hc hf
  obtain ⟨-, -, -, -, hdomain, -⟩ := hc
  exact u64_toNat_of_lt (hlt.trans hdomain)

/-- The halves of Decrypt before its first round: the split of the operand, un-swapped by the parity of the round count
(41_datapath.md R142). -/
def decryptStart (c : Cfg) (m : Word) : Halves :=
  if odd c.rounds then { rr := u64 (m.toNat % c.a.toNat), ll := u64 (m.toNat / c.a.toNat) }
  else { rr := u64 (m.toNat / c.a.toNat), ll := u64 (m.toNat % c.a.toNat) }

theorem decryptCore_eq_combine (t : Sbox) (c : Cfg) (m : Word) :
    decryptCore t c m = combine c (decryptRounds t c (roundCount c) (decryptStart c m)).rr
      (decryptRounds t c (roundCount c) (decryptStart c m)).ll := rfl

theorem u64_div_toNat (m : Word) (d : Nat) : (u64 (m.toNat / d)).toNat = m.toNat / d :=
  u64_toNat_of_lt ((Nat.div_le_self _ _).trans_lt m.isLt)

theorem u64_mod_toNat (m : Word) (d : Nat) : (u64 (m.toNat % d)).toNat = m.toNat % d :=
  u64_toNat_of_lt ((Nat.mod_le _ _).trans_lt m.isLt)

theorem decryptStart_of_odd {c : Cfg} (m : Word) (h : odd c.rounds = true) :
    (decryptStart c m).ll.toNat = m.toNat / c.a.toNat ∧ (decryptStart c m).rr.toNat = m.toNat % c.a.toNat := by
  rw [decryptStart, if_pos h]
  exact ⟨u64_div_toNat m _, u64_mod_toNat m _⟩

theorem decryptStart_of_not_odd {c : Cfg} (m : Word) (h : ¬odd c.rounds = true) :
    (decryptStart c m).rr.toNat = m.toNat / c.a.toNat ∧ (decryptStart c m).ll.toNat = m.toNat % c.a.toNat := by
  rw [decryptStart, if_neg h]
  exact ⟨u64_div_toNat m _, u64_mod_toNat m _⟩

/-- The un-swapped halves fit at every index of the stored count's parity. -/
theorem decryptStart_fits {c : Cfg} {m : Word} {j : Nat} (hc : c.Ranged) (hm : m.toNat < c.a.toNat * c.b.toNat)
    (hj : odd c.rounds = true ↔ j % 2 = 1) : HalvesFit c j (decryptStart c m) := by
  obtain ⟨-, ha, -⟩ := hc
  have hdiv : m.toNat / c.a.toNat < c.b.toNat := Nat.div_lt_of_lt_mul hm
  have hmod : m.toNat % c.a.toNat < c.a.toNat := Nat.mod_lt _ ha
  by_cases hodd : odd c.rounds = true
  · obtain ⟨hll, hrr⟩ := decryptStart_of_odd m hodd
    exact (halvesFit_odd_iff (hj.1 hodd)).2 ⟨hrr ▸ hmod, hll ▸ hdiv⟩
  · obtain ⟨hrr, hll⟩ := decryptStart_of_not_odd m hodd
    exact (halvesFit_even_iff (by have := mt hj.2 hodd; omega)).2 ⟨hrr ▸ hdiv, hll ▸ hmod⟩

/-- The halves Decrypt combines fit. With no round to run they are the un-swapped ones, of whichever parity a negative count has. -/
theorem decryptRounds_decryptStart_fits (t : Sbox) {c : Cfg} {m : Word} (hc : c.Ranged)
    (hm : m.toNat < c.a.toNat * c.b.toNat) :
    ∃ j, HalvesFit c j (decryptRounds t c (roundCount c) (decryptStart c m)) := by
  rcases Nat.eq_zero_or_pos (roundCount c) with hzero | hpos
  · rw [hzero]
    exact ⟨(odd c.rounds).toNat, decryptStart_fits hc hm (by cases odd c.rounds <;> decide)⟩
  · exact ⟨0, decryptRounds_fits hc _ _ (decryptStart_fits hc hm (odd_rounds_iff_roundCount hpos))⟩

/-- The rounds `n` down to 1 leave a trace: the halves before each round, with the result at index 0. -/
theorem decryptRounds_trace (t : Sbox) (c : Cfg) (n : Nat) (h : Halves) :
    ∃ g : Nat → Halves, g n = h ∧ (∀ j, 1 ≤ j → j ≤ n → g (j - 1) = decryptRound t c j (g j)) ∧
      g 0 = decryptRounds t c n h := by
  induction n generalizing h with
  | zero => exact ⟨fun _ => h, rfl, by omega, rfl⟩
  | succ n ih =>
    obtain ⟨g, hstart, hround, hend⟩ := ih (decryptRound t c (n + 1) h)
    refine ⟨Function.update g (n + 1) h, Function.update_self .., fun j hpos hle => ?_, ?_⟩
    · rw [Function.update_of_ne (by omega)]
      rcases Nat.eq_or_lt_of_le hle with rfl | hlt
      · rw [Function.update_self]
        exact hstart
      · rw [Function.update_of_ne (by omega)]
        exact hround j hpos (by omega)
    · rw [Function.update_of_ne (by omega)]
      exact hend

/-- Round `j` of Decrypt on exact numbers (41_datapath.md R142). -/
theorem decryptRound_toNat {t : Sbox} {c : Cfg} (hc : c.Ranged) (j : Nat) (h : Halves) :
    (decryptRound t c j h).rr.toNat = h.ll.toNat ∧
      (decryptRound t c j h).ll.toNat =
        subModNumber h.rr.toNat (roundFunction t c.seed j (BitVec.ofNat 64 h.ll.toNat)).toNat (roundModulus c j) := by
  obtain ⟨-, ha, hab, -⟩ := hc
  refine ⟨rfl, ?_⟩
  rw [decryptRound_ll, subMod_toNat_eq_subModNumber _ _ _ (modulus_ne_zero ha (ha.trans hab) j),
    roundF_eq_roundFunction, modulus_toNat]
  exact congrArg (fun x => subModNumber _ (roundFunction t c.seed j x).toNat _) (u64_of_toNat h.ll).symm

/-- On its domain the model's inverse core is the spec's Decrypt: the trace of its rounds, read as numbers. -/
theorem isDecrypt_decryptCore (t : Sbox) {c : Cfg} {m : Word} (hc : c.Ranged) (hm : m.toNat < c.a.toNat * c.b.toNat) :
    isDecrypt t c m.toNat (decryptCore t c m) := by
  obtain ⟨g, hstart, hround, hend⟩ := decryptRounds_trace t c (roundCount c) (decryptStart c m)
  obtain ⟨k, hfit⟩ := decryptRounds_decryptStart_fits t hc hm
  refine ⟨fun j => (g j).rr.toNat, fun j => (g j).ll.toNat, fun hodd => ?_, fun hodd => ?_, fun j hpos hle => ?_, ?_⟩
  · simp only [← roundCount_eq_roundsRun, hstart]
    exact decryptStart_of_odd m ((odd_rounds_iff c).2 hodd)
  · simp only [← roundCount_eq_roundsRun, hstart]
    exact decryptStart_of_not_odd m (mt (odd_rounds_iff c).1 hodd)
  · simp only [hround j hpos hle]
    exact decryptRound_toNat hc j (g j)
  · simp only [hend, decryptCore_eq_combine, combine_toNat hc hfit]

theorem coreCommand_of_lt {s : State} {m : Word} (fn : Word → Word) (h : m.toNat < s.cfg.a.toNat * s.cfg.b.toNat) :
    coreCommand fn m s = succeeded { s with result := fn m } :=
  if_neg (Nat.not_le.2 h)

theorem coreCommand_of_le {s : State} {m : Word} (fn : Word → Word) (h : s.cfg.a.toNat * s.cfg.b.toNat ≤ m.toNat) :
    coreCommand fn m s = failed .domainRange s :=
  if_pos h

/-- Settles O32: in its domain the core is Decrypt as `isDecrypt_decryptCore` says, and the command's two branches are those of
`coreCommand`. -/
theorem decryptFollowsTheRoundRecurrence : Obligations.DecryptFollowsTheRoundRecurrence := by
  refine ⟨decode_encode .decrypt, fun s c hc hlegal => ⟨fun hlt => ⟨?_, ?_⟩, fun hle => ?_⟩⟩
  · exact isDecrypt_decryptCore s.sbox (ranged_of_lt_domain hlegal hlt) hlt
  · rw [exec_decrypt hc, coreCommand_of_lt _ hlt]
  · rw [exec_decrypt hc, coreCommand_of_le _ hle]

end Sys2Proof.Machine
end

section
/-! The halves and the rounds of Encrypt, and from them the proof about ENCRYPT (41_datapath.md R137, 42_commands.md R170). -/

namespace Sys2Proof.Machine

open Sys2Proof.Spec

/-- The halves of Encrypt before its first round (41_datapath.md R137). -/
def encryptStart (c : Cfg) (m : Word) : Halves := { rr := u64 (m.toNat / c.a.toNat), ll := u64 (m.toNat % c.a.toNat) }

theorem encryptStart_rr_toNat (c : Cfg) (m : Word) : (encryptStart c m).rr.toNat = m.toNat / c.a.toNat := u64_div_toNat m _

theorem encryptStart_ll_toNat (c : Cfg) (m : Word) : (encryptStart c m).ll.toNat = m.toNat % c.a.toNat := u64_mod_toNat m _

/-- The halves Encrypt combines, those after its last round. -/
def encryptEnd (t : Sbox) (c : Cfg) (m : Word) : Halves := encryptRounds t c (roundCount c) (encryptStart c m)

theorem encryptCore_of_odd (t : Sbox) {c : Cfg} (m : Word) (h : odd c.rounds = true) :
    encryptCore t c m = combine c (encryptEnd t c m).ll (encryptEnd t c m).rr := if_pos h

theorem encryptCore_of_not_odd (t : Sbox) {c : Cfg} (m : Word) (h : ¬odd c.rounds = true) :
    encryptCore t c m = combine c (encryptEnd t c m).rr (encryptEnd t c m).ll := if_neg h

theorem encryptStart_fits {c : Cfg} {m : Word} (hc : c.Ranged) (hm : m.toNat < c.a.toNat * c.b.toNat) :
    HalvesFit c 0 (encryptStart c m) := by
  obtain ⟨-, ha, -⟩ := hc
  rw [halvesFit_even_iff rfl, encryptStart_rr_toNat, encryptStart_ll_toNat]
  exact ⟨Nat.div_lt_of_lt_mul hm, Nat.mod_lt _ ha⟩

theorem encryptRound_fits {t : Sbox} {c : Cfg} {j : Nat} {h : Halves} (hc : c.Ranged) (hf : HalvesFit c j h) :
    HalvesFit c (j + 1) (encryptRound t c (j + 1) h) := by
  obtain ⟨-, ha, hab, -⟩ := hc
  obtain ⟨hrr, -⟩ := hf
  refine ⟨addMod_lt _ _ _ (modulus_ne_zero ha (ha.trans hab) _), ?_⟩
  rw [modulus_add_two]
  exact hrr

theorem encryptRounds_fits {t : Sbox} {c : Cfg} (hc : c.Ranged) (n : Nat) {h : Halves} (hf : HalvesFit c 0 h) :
    HalvesFit c n (encryptRounds t c n h) := by
  induction n with
  | zero => exact hf
  | succ j ih => exact encryptRound_fits hc ih

theorem encryptEnd_fits (t : Sbox) {c : Cfg} {m : Word} (hc : c.Ranged) (hm : m.toNat < c.a.toNat * c.b.toNat) :
    HalvesFit c (roundCount c) (encryptEnd t c m) :=
  encryptRounds_fits hc _ (encryptStart_fits hc hm)

/-- Swapped halves fit at the other parity. -/
theorem HalvesFit.swap {c : Cfg} {j : Nat} {h : Halves} (hf : HalvesFit c j h) :
    HalvesFit c (j + 1) { rr := h.ll, ll := h.rr } := by
  obtain ⟨hrr, hll⟩ := hf
  refine ⟨hll, ?_⟩
  rw [modulus_add_two]
  exact hrr

/-- Combine is exact on halves that fit, in the order for an odd round count too (41_datapath.md R130, R137). -/
theorem combine_swap_toNat {c : Cfg} {j : Nat} {h : Halves} (hc : c.Ranged) (hf : HalvesFit c j h) :
    (combine c h.ll h.rr).toNat = c.a.toNat * h.ll.toNat + h.rr.toNat :=
  combine_toNat hc hf.swap

/-- Round `j` of Encrypt on exact numbers (41_datapath.md R137). -/
theorem encryptRound_toNat {t : Sbox} {c : Cfg} (hc : c.Ranged) (j : Nat) (h : Halves) :
    (encryptRound t c j h).rr.toNat =
        (h.ll.toNat + (roundFunction t c.seed j (BitVec.ofNat 64 h.rr.toNat)).toNat) % roundModulus c j ∧
      (encryptRound t c j h).ll.toNat = h.rr.toNat := by
  obtain ⟨-, ha, hab, -⟩ := hc
  have operand : BitVec.ofNat 64 h.rr.toNat = h.rr := u64_of_toNat h.rr
  refine ⟨?_, rfl⟩
  rw [encryptRound_rr, addMod_toNat _ _ _ (modulus_ne_zero ha (ha.trans hab) j), roundF_eq_roundFunction, modulus_toNat, operand]

/-- On its domain the model's forward core is the spec's Encrypt: the halves after each round, read as numbers. -/
theorem isEncrypt_encryptCore (t : Sbox) {c : Cfg} {m : Word} (hc : c.Ranged) (hm : m.toNat < c.a.toNat * c.b.toNat) :
    isEncrypt t c m.toNat (encryptCore t c m) := by
  have hfit := encryptEnd_fits t hc hm
  refine ⟨fun j => (encryptRounds t c j (encryptStart c m)).rr.toNat, fun j => (encryptRounds t c j (encryptStart c m)).ll.toNat,
    encryptStart_rr_toNat c m, encryptStart_ll_toNat c m, fun j hpos _ => ?_, fun hodd => ?_, fun hodd => ?_⟩
  · obtain ⟨i, rfl⟩ := Nat.exists_eq_add_of_le' hpos
    exact encryptRound_toNat hc (i + 1) _
  · rw [encryptCore_of_odd t m ((odd_rounds_iff c).2 hodd)]
    exact combine_swap_toNat hc hfit
  · rw [encryptCore_of_not_odd t m (mt (odd_rounds_iff c).1 hodd)]
    exact combine_toNat hc hfit

/-- With no round stored, Encrypt splits its operand and joins it again (41_datapath.md R141). -/
theorem encryptCore_of_rounds_zero (t : Sbox) {c : Cfg} (m : Word) (h : c.rounds = 0) : encryptCore t c m = m := by
  have hodd : ¬odd c.rounds = true := by
    rw [h]
    decide
  have hend : encryptEnd t c m = encryptStart c m := by
    have hcount : roundCount c = 0 := by
      rw [roundCount, h]
      rfl
    rw [encryptEnd, hcount]
    rfl
  rw [encryptCore_of_not_odd t m hodd, hend, combine, encryptStart_rr_toNat, encryptStart_ll_toNat, Nat.div_add_mod, u64_of_toNat]

/-- Settles O31: in its domain the core is Encrypt as `isEncrypt_encryptCore` says, and the command's two branches are those of
`coreCommand`. -/
theorem encryptFollowsTheRoundRecurrence : Obligations.EncryptFollowsTheRoundRecurrence := by
  refine ⟨decode_encode .encrypt, fun s c hc hlegal => ⟨fun hlt => ⟨?_, ?_, ?_⟩, fun hle => ?_⟩⟩
  · exact isEncrypt_encryptCore s.sbox (ranged_of_lt_domain hlegal hlt) hlt
  · exact encryptCore_of_rounds_zero s.sbox c.arg0
  · rw [exec_encrypt hc, coreCommand_of_lt _ hlt]
  · rw [exec_encrypt hc, coreCommand_of_le _ hle]

end Sys2Proof.Machine
end

section
/-! The bits of a recombined round value, and from them the proof about ROUNDF (41_datapath.md R121, R125, 42_commands.md R175). -/

namespace Sys2Proof.Machine

open Sys2Proof.Spec

/-- Where each of the eight values lands in the recombination (41_datapath.md R125). -/
theorem recombine_eq_placed (s : Nat → Word) :
    recombine s = (s 0 <<< 0 ||| s 1 <<< 8) ^^^ (s 2 <<< 16 ||| s 3 <<< 24) ^^^ (s 4 <<< 23 ||| s 5 <<< 31) ^^^
      (s 6 <<< 49 ||| s 7 <<< 57) := by
  simp only [recombine, shl64_eq_shiftLeft, BitVec.shiftLeft_zero, BitVec.shiftLeft_or_distrib, ← BitVec.shiftLeft_add]

/-- A substituted value placed at bit `k` occupies bits `k + 7` to `k` only. -/
theorem zext64_shiftLeft_getLsbD_outside (b : Byte) {k i : Nat} (h : i < k ∨ k + 8 ≤ i) :
    (zext64 b <<< k).getLsbD i = false := by
  rcases h with h | h
  · simp [h]
  · simp [zext64, BitVec.getLsbD_of_ge b (i - k) (by omega)]

/-- Bits 48 to 39 of a recombination are 0, because no substituted value lands there (41_datapath.md R125). -/
theorem recombine_zext64_gap (v : Nat → Byte) : (recombine fun n => zext64 (v n)).extractLsb' 39 10 = 0 := by
  apply BitVec.eq_of_getLsbD_eq
  intro i hi
  rw [recombine_eq_placed, BitVec.getLsbD_extractLsb']
  simp (disch := omega) only [BitVec.getLsbD_xor, BitVec.getLsbD_or, zext64_shiftLeft_getLsbD_outside]
  simp

/-- ROUNDF on an ARG1 in its range (42_commands.md R175). -/
theorem exec_roundf_of_in_range {s : State} {c : Latched} (hc : s.latch = some c) (h1 : 1 ≤ c.arg1.toNat)
    (h64 : c.arg1.toNat ≤ 64) :
    exec .roundf s = .next (succeeded { s with result := roundFunction s.sbox s.cfg.seed c.arg1.toNat c.arg0 }) := by
  rw [exec_roundf hc, if_neg (by omega), roundF_eq_roundFunction]
  rfl

/-- Settles O27: in range the model's F is the pseudocode, out of range the check fails, and the corner cases are those of the
shifts and of `recombine_zext64_gap`. -/
theorem roundfComputesTheRoundFunction : Obligations.RoundfComputesTheRoundFunction := by
  refine ⟨decode_encode .roundf, fun s c hc => ⟨exec_roundf_of_in_range hc, fun hout => ?_, fun h64 => ?_, ?_⟩⟩
  · rw [exec_roundf hc, if_pos hout]
    rfl
  · rw [h64, BitVec.shiftLeft_eq_zero (le_refl 64), Nat.sub_self, BitVec.ushiftRight_zero, BitVec.zero_xor]
  · rw [← roundF_eq_roundFunction]
    exact recombine_zext64_gap _

end Sys2Proof.Machine
end

section
/-! The proof about SBOXRD (42_commands.md R180). -/

namespace Sys2Proof.Machine

open Sys2Proof.Spec

/-- The entry at an index register that holds at most 255 (41_datapath.md R120). -/
theorem sboxAt_setWidth (t : Sbox) {w : Word} {i : Fin 256} (h : w.toNat = i.val) : sboxAt t (w.setWidth 8) = t.get i := by
  have hi : (w.setWidth 8).toNat = i.val := by
    rw [BitVec.toNat_setWidth, h]
    exact Nat.mod_eq_of_lt i.isLt
  simp only [sboxAt, hi]
  rfl

/-- Settles O26: up to 255 the low byte of ARG0 is ARG0, so the entry read is the indexed one; above 255 the check fails. -/
theorem sboxrdReadsTheRom : Obligations.SboxrdReadsTheRom := by
  refine ⟨decode_encode .sboxrd, fun s c hc => ⟨fun i hi => ⟨?_, ?_⟩, fun hout => ?_⟩⟩
  · rw [exec_sboxrd hc, if_neg (by omega), sboxAt_setWidth s.sbox hi]
    rfl
  · rw [BitVec.toNat_setWidth_of_le (by decide)]
    exact (s.sbox.get i).isLt
  · rw [exec_sboxrd hc, if_pos hout]
    rfl

end Sys2Proof.Machine
end

section
/-! The operand checks and CFG_OVERFLOW: what each meaning answers once its check fails, and from it the proofs about R203 to R206
and R207 of 60_exceptions.md. -/

namespace Sys2Proof.Machine

open Sys2Proof.Spec

/-- The moduli of the last accepted operand, as 40_configure.md R107 prints them. -/
theorem moduli_last_accepted : moduli 0xFFFFFFFFFFFFFFF6 = (4294967293, 4294967299) := by
  decide

/-- CONFIGURE below the overflow (40_configure.md R100). -/
theorem exec_configure_of_lt {s : State} {c : Latched} (hc : s.latch = some c) (h : c.arg0.toNat < 0xFFFFFFFFFFFFFFF7) :
    exec .configure s = .next (succeeded
      { s with
        cfg :=
          { rangeLen := c.arg0, rounds := clampRounds c.arg1, seed := c.arg2
            a := u64 (moduli c.arg0.toNat).1, b := u64 (moduli c.arg0.toNat).2 } }) := by
  rw [exec_configure hc, construct_of_lt _ _ h]
  rfl

/-- CONFIGURE from the first refused operand on (40_configure.md R107). -/
theorem exec_configure_of_overflow {s : State} {c : Latched} (hc : s.latch = some c)
    (h : 0xFFFFFFFFFFFFFFF7 ≤ c.arg0.toNat) : exec .configure s = .next (failed .cfgOverflow s) := by
  obtain ⟨-, hanswer⟩ := configureBuildsTheSpecifiedConfiguration
  exact (hanswer s c hc).2 h

/-- CONFIGURE answers CFG_OVERFLOW exactly from the first refused operand on (60_exceptions.md R207). -/
theorem exec_configure_overflow_iff {s : State} {c : Latched} (hc : s.latch = some c) :
    (∃ t, exec .configure s = .next t ∧ t.status.errcode = .cfgOverflow) ↔ 0xFFFFFFFFFFFFFFF7 ≤ c.arg0.toNat := by
  constructor
  · rintro ⟨t, ht, hcode⟩
    by_contra hlt
    rw [exec_configure_of_lt hc (Nat.not_le.1 hlt)] at ht
    cases ht
    cases hcode
  · exact fun hge => ⟨_, exec_configure_of_overflow hc hge, rfl⟩

/-- The exact product of the moduli reaches `2^64` exactly from the first refused operand on (40_configure.md R107). -/
theorem le_moduli_product_iff {n : Nat} (hn : n < 2 ^ 64) :
    2 ^ 64 ≤ (moduli n).1 * (moduli n).2 ↔ 0xFFFFFFFFFFFFFFF7 ≤ n := by
  rw [← not_lt, moduli_product_lt_iff hn, not_lt]

/-- Settles O21: the product's bound and the command's answer both turn at the first refused operand; above it the start fixes `a`,
and below it the last accepted operand has the printed moduli. -/
theorem cfgOverflowExactlyForNineOperands : Obligations.CfgOverflowExactlyForNineOperands := by
  refine ⟨fun s c hc => ⟨?_, fun hprod => ?_, fun hlast => ?_⟩, fun n hn => ⟨le_moduli_product_iff hn, fun hge => ?_⟩⟩
  · rw [exec_configure_overflow_iff hc]
    exact ⟨fun hge => ⟨hge, Nat.le_of_lt_succ c.arg0.isLt⟩, And.left⟩
  · exact exec_configure_of_overflow hc ((le_moduli_product_iff c.arg0.isLt).1 hprod)
  · have hnum : c.arg0.toNat = 0xFFFFFFFFFFFFFFF6 := congrArg BitVec.toNat hlast
    refine ⟨_, exec_configure_of_lt hc (by omega), rfl, ?_, ?_⟩ <;>
      simp [succeeded, hnum, moduli_last_accepted]
  · obtain ⟨ha, -⟩ := moduli_spec (by omega) hn
    rw [ha, startModuli_of_overflow hge hn]

theorem walkCommand_of_le {s : State} {m : Word} (fn : Word → Word) (h : s.cfg.rangeLen.toNat ≤ m.toNat) :
    walkCommand fn m s = failed .indexRange s :=
  if_pos h

/-- Both walk commands refuse an operand that is not below the range length (60_exceptions.md R203). -/
theorem exec_walks_of_le {s : State} {c : Latched} (hc : s.latch = some c) (h : s.cfg.rangeLen.toNat ≤ c.arg0.toNat) :
    exec .shuffle s = .next (failed .indexRange s) ∧ exec .unshuffle s = .next (failed .indexRange s) := by
  rw [exec_shuffle hc, exec_unshuffle hc, walkCommand_of_le _ h, walkCommand_of_le _ h]
  exact ⟨rfl, rfl⟩

/-- Settles O25: every check is the first branch of its command; an empty range has no operand below its length. -/
theorem operandChecksRaiseTheirErrors : Obligations.OperandChecksRaiseTheirErrors := by
  intro s c hc
  refine ⟨exec_walks_of_le hc, fun hempty => ?_, fun hdomain => ?_, fun hround => ?_, fun hindex => ?_⟩
  · exact exec_walks_of_le hc (by simp [hempty])
  · rw [exec_encrypt hc, exec_decrypt hc, coreCommand_of_le _ hdomain, coreCommand_of_le _ hdomain]
    exact ⟨rfl, rfl⟩
  · obtain ⟨-, hroundf⟩ := roundfComputesTheRoundFunction
    obtain ⟨-, hout, -⟩ := hroundf s c hc
    exact hout hround
  · obtain ⟨-, hsboxrd⟩ := sboxrdReadsTheRom
    exact (hsboxrd s c hc).2 hindex

end Sys2Proof.Machine
end

section
/-! Words that decode to no command, what the engine step can leave for any latched word, and from them the proofs about R201, R202
and R225 of 60_exceptions.md. -/

namespace Sys2Proof.Machine

open Sys2Proof.Spec

/-- The assigned opcodes are 1 to 7 (30_encoding.md R72). -/
theorem opcodeNumber_bounds (i : Instr) : 1 ≤ opcodeNumber i ∧ opcodeNumber i ≤ 7 := by
  cases i <;> decide

/-- A word with a nonzero RSVD field or an unassigned opcode decodes to no command (30_encoding.md R74, R75). -/
theorem decode_eq_error_of_illegal {w : Word}
    (h : w.toNat / 2 ^ 8 ≠ 0 ∨ w.toNat % 2 ^ 8 = 0x00 ∨ 0x08 ≤ w.toNat % 2 ^ 8) : ∃ r, decode w = .error r := by
  cases hdec : decode w with
  | error r => exact ⟨r, rfl⟩
  | ok i =>
    have hword := toNat_eq_opcodeNumber_of_decode hdec
    obtain ⟨hlo, hhi⟩ := opcodeNumber_bounds i
    omega

/-- The engine step on a word that decodes to no command reads no operand (60_exceptions.md R202). -/
theorem engineTurn_of_decode_error {c : Latched} {r : DecodeReject} (h : decode c.word = .error r) (s : State) :
    engineTurn c s = .next (failed .illegalCmd s) := by
  unfold engineTurn
  rw [h]
  rfl

/-- Settles O8: an illegal word decodes to no command, and the engine step on it raises ILLEGAL_CMD. -/
theorem illegalWordCompletesWithIllegalCmd : Obligations.IllegalWordCompletesWithIllegalCmd := by
  intro s c hl hd hillegal
  obtain ⟨r, hdec⟩ := decode_eq_error_of_illegal hillegal
  rw [step_engine hl hd, engineTurn_of_decode_error hdec]

/-- Settles O10: a STATUS that agrees with the latch shows BUSY = 0 only on an empty latch, and then a host turn with no input
keeps the state. -/
theorem idleBlockKeepsAllItsState : Obligations.IdleBlockKeepsAllItsState := by
  rintro s ⟨hbusy, -⟩ hidle hin
  have hl : s.latch = none := by simpa [hidle] using hbusy
  rw [step_idle hl, hostTurn_nil hin]

/-- ITER_COUNT after a completion with this error: only WALK_LIMIT writes it (60_exceptions.md R201). -/
def iterCountAfterError (e : ErrorCode) (s : State) : Word :=
  if e = .walkLimit then BitVec.ofNat 64 (s.cfg.a.toNat * s.cfg.b.toNat) else s.iterCount

theorem raiseError_eq_failed_of_ne_walkLimit {e : ErrorCode} (h : e ≠ .walkLimit) (s : State) :
    raiseError e s = failed e { s with iterCount := iterCountAfterError e s } := by
  rw [iterCountAfterError, if_neg h]
  rfl

/-- What the engine step leaves for a latched word: an error with its ITER_COUNT and nothing else, or a success in which a register
differs only for the words of the commands that write it (60_exceptions.md R201). -/
theorem step_engine_completes {s t : State} {c : Latched} (hl : s.latch = some c) (hd : s.delay = 0) (h : step s = .next t) :
    (∃ e, e ≠ .none ∧ t = failed e { s with iterCount := iterCountAfterError e s }) ∨
      ∃ cfg result iterCount, t = succeeded { s with cfg := cfg, result := result, iterCount := iterCount } ∧
        (c.word.toNat ≠ 1 → cfg = s.cfg) ∧ (c.word.toNat = 1 → result = s.result) ∧
        (c.word.toNat ≠ 2 → c.word.toNat ≠ 3 → iterCount = s.iterCount) := by
  rw [step_engine hl hd] at h
  cases hdec : decode c.word with
  | error r =>
    rw [engineTurn_of_decode_error hdec] at h
    cases h
    exact .inl ⟨.illegalCmd, by decide, raiseError_eq_failed_of_ne_walkLimit (by decide) s⟩
  | ok i =>
    have hword := toNat_eq_opcodeNumber_of_decode hdec
    have hexec : exec i s = .next t := by simpa only [engineTurn, hdec] using h
    obtain ⟨-, -, ⟨e, hne, hwalk, rfl⟩ | ⟨-, rfl⟩ | ⟨rfl, cfg, -, rfl⟩ | ⟨hi, v, k, rfl⟩ | ⟨hi, -, -, v, rfl⟩⟩ :=
      exec_cases hexec
    · exact .inl ⟨e, hne, raiseError_eq_failed_of_ne_walkLimit hwalk s⟩
    · exact .inl ⟨.walkLimit, by decide, rfl⟩
    · exact .inr ⟨cfg, s.result, s.iterCount, rfl, fun hw => absurd hword hw, fun _ => rfl, fun _ _ => rfl⟩
    · have hwalks : c.word.toNat = 2 ∨ c.word.toNat = 3 := by
        rw [hword]
        rcases hi with rfl | rfl <;> decide
      exact .inr ⟨s.cfg, v, u64 k, rfl, fun _ => rfl, fun _ => by omega, fun _ _ => by omega⟩
    · obtain ⟨hlo, -⟩ := opcodeNumber_of_ne_configure hi
      exact .inr ⟨s.cfg, v, s.iterCount, rfl, fun _ => rfl, fun _ => by omega, fun _ _ => rfl⟩

/-- Settles O45: `step_engine_completes` names the two ways a latched word completes, and ERR tells them apart. -/
theorem completionWritesExactlyWhatItShould : Obligations.CompletionWritesExactlyWhatItShould := by
  intro s t c hl hd hstep
  obtain ⟨e, hne, rfl⟩ | ⟨cfg, result, iterCount, rfl, hframe⟩ := step_engine_completes hl hd hstep
  · exact ⟨fun _ => ⟨hne, rfl⟩, Bool.noConfusion⟩
  · exact ⟨Bool.noConfusion, fun _ => ⟨rfl, hframe⟩⟩

end Sys2Proof.Machine
end

section
/-! The step that takes a reset input, what the registers read after it, and from them the proof about the reset table
(70_reset_and_hazards.md R230, R232). -/

namespace Sys2Proof.Machine

open Sys2Proof.Spec

/-- Taking reset is one step, with or without a command in flight (70_reset_and_hazards.md R232). -/
theorem step_reset {s : State} {rest : List HostInput} (hm : hostMovesNext s) (hin : s.inputs = .reset :: rest) :
    step s = .next (resetBlock (taken s rest)) :=
  step_eq_deliver_taken hm hin

/-- Reset of a block in its reset state leaves it there, so what holds after every reset holds in the reset state. -/
@[simp] theorem resetBlock_reset : resetBlock State.reset = State.reset := rfl

@[simp] theorem word_reset : Status.reset.word = 0 := by decide

/-- Every register of the window is a field that reset clears, the word of the cleared STATUS, or CMD, which holds no state. -/
@[simp] theorem readReg_resetBlock (r : RegName) (s : State) : readReg r (resetBlock s) = 0 := by
  cases r with
  | status => exact word_reset
  | _ => rfl

/-- Settles O1: the reset state is the reset block of itself, a step that takes reset leaves the reset block of what it took,
and `readReg_resetBlock` says what either reads; taking the input does not touch the ROM. -/
theorem resetLeavesEveryRegisterZero : Obligations.ResetLeavesEveryRegisterZero := by
  refine ⟨⟨rfl, rfl, rfl, rfl, rfl, rfl, rfl, rfl, rfl, ?_⟩, ?_⟩
  · intro r
    rw [← resetBlock_reset, readReg_resetBlock]
  · intro s rest hm hin
    exact ⟨resetBlock (taken s rest), step_reset hm hin, rfl, rfl, rfl, rfl, rfl, rfl, rfl, rfl, rfl,
      fun r => readReg_resetBlock r (taken s rest)⟩

end Sys2Proof.Machine
end

section
/-! Words and the bytes that carry them, and from them and the opcode map the proofs about decode and encode (30_encoding.md R70 to
R76, 20_memory.md R55). -/

namespace Sys2Proof.Machine

open Sys2Proof.Spec

/-- Byte `k` of a word as the bus carries it (20_memory.md R55). -/
theorem getElem?_bytesOfWord (w : Word) {k : Nat} (hk : k < 8) :
    (bytesOfWord w)[k]? = some (BitVec.ofNat 8 (w.toNat / 2 ^ (8 * k))) := by
  have hbyte : w.extractLsb' (8 * k) 8 = BitVec.ofNat 8 (w.toNat / 2 ^ (8 * k)) := by
    rw [BitVec.extractLsb', Nat.shiftRight_eq_div_pow]
  simp [bytesOfWord, hk, hbyte]

@[simp] theorem length_bytesOfWord (w : Word) : (bytesOfWord w).length = 8 := rfl

/-- The lowest byte of a word, and the word above it, make the word again. -/
theorem byte_or_shiftLeft_ushiftRight (w : Word) (k : Nat) :
    (w.extractLsb' (8 * k) 8).setWidth 64 ||| ((w >>> (8 * (k + 1))) <<< 8) = w >>> (8 * k) := by
  apply BitVec.eq_of_getLsbD_eq
  intro i hi
  rcases Nat.lt_or_ge i 8 with h | h
  · simp [h, hi]
  · have hlow : (8 * k + 8 + (i - 8)) = 8 * k + i := by omega
    simp [hi, Nat.not_lt.2 h, Nat.mul_add, hlow]

/-- A word is what its eight bytes carry (20_memory.md R55). -/
@[simp] theorem wordOfBytes_bytesOfWord (w : Word) : wordOfBytes (bytesOfWord w) = w := by
  have htop : (0 : Word) = w >>> (8 * 8) := (BitVec.ushiftRight_eq_zero (by decide)).symm
  have hbytes : wordOfBytes (bytesOfWord w) = w >>> (8 * 0) := by
    simp only [bytesOfWord, List.range, List.range.loop, List.map, wordOfBytes]
    rw [htop]
    simp only [byte_or_shiftLeft_ushiftRight]
  rwa [Nat.mul_zero, BitVec.ushiftRight_zero] at hbytes

@[simp] theorem decodeBytes_bytesOfWord (w : Word) : decodeBytes (bytesOfWord w) = decode w := by
  rw [decodeBytes, if_pos (length_bytesOfWord w), wordOfBytes_bytesOfWord]

theorem encode_eq_of_decode {w : Word} {i : Instr} (h : decode w = .ok i) : encode i = w :=
  BitVec.eq_of_toNat_eq ((toNat_encode i).trans (toNat_eq_opcodeNumber_of_decode h).symm)

/-- Every assigned opcode is that of a command (30_encoding.md R72). -/
theorem exists_opcodeNumber_eq {n : Nat} (hlo : 1 ≤ n) (hhi : n ≤ 7) : ∃ i, n = opcodeNumber i := by
  interval_cases n
  exacts [⟨.configure, rfl⟩, ⟨.shuffle, rfl⟩, ⟨.unshuffle, rfl⟩, ⟨.encrypt, rfl⟩, ⟨.decrypt, rfl⟩, ⟨.roundf, rfl⟩,
    ⟨.sboxrd, rfl⟩]

/-- The well-formed words are the numbers 1 to 7 (30_encoding.md R70, R72). -/
theorem commandWordWellFormed_iff (w : Word) : commandWordWellFormed w = true ↔ 1 ≤ w.toNat ∧ w.toNat ≤ 7 := by
  simp only [commandWordWellFormed, reservedClear, opcodeAssigned, Bool.and_eq_true, beq_iff_eq, decide_eq_true_iff]
  omega

/-- The well-formed words are those that decode (30_encoding.md R75). -/
theorem commandWordWellFormed_iff_decodes (w : Word) : commandWordWellFormed w = true ↔ ∃ i, decode w = .ok i := by
  rw [commandWordWellFormed_iff]
  constructor
  · rintro ⟨hlo, hhi⟩
    obtain ⟨i, hi⟩ := exists_opcodeNumber_eq hlo hhi
    exact ⟨i, (wordDecodesToCommandExactlyByOpcodeMap w i).2 hi⟩
  · rintro ⟨i, hi⟩
    rw [toNat_eq_opcodeNumber_of_decode hi]
    exact opcodeNumber_bounds i

/-- Bytes that are no eight carry no command (30_encoding.md R70). -/
theorem decodeBytes_of_length_ne {bs : List Byte} (h : bs.length ≠ 8) : decodeBytes bs = .error .notOneWord :=
  if_neg h

/-- Settles O6: a command's word decodes to it and a word that decodes is that command's; the bytes of a word carry it, so
decoding them is decoding it. -/
theorem decodeAndEncodeAgreeOnWordsAndBytes : Obligations.DecodeAndEncodeAgreeOnWordsAndBytes := by
  refine ⟨fun i _ => ⟨decode_encode i, ?_⟩, fun w i => encode_eq_of_decode, commandWordWellFormed_iff_decodes,
    fun w => ⟨wordOfBytes_bytesOfWord w, decodeBytes_bytesOfWord w, fun k => getElem?_bytesOfWord w⟩, fun bs hlen i => ?_⟩
  · rw [decodeBytes_bytesOfWord, decode_encode]
  · rw [decodeBytes_of_length_ne hlen]
    exact nofun

/-- Settles O5: the seven printed command words are the encodings; the decoder computes its refusal of the five others. -/
theorem printedCommandWordsDecode : Obligations.PrintedCommandWordsDecode :=
  ⟨decode_encode .configure, decode_encode .shuffle, decode_encode .unshuffle, decode_encode .encrypt, decode_encode .decrypt,
    decode_encode .roundf, decode_encode .sboxrd, by decide, by decide, by decide, by decide, by decide⟩

end Sys2Proof.Machine
end

section
/-! What a latched word answers, as a function of the word, its operands, the configuration and the ROM alone, and from it the
proofs about the engine step and about determinism (10_state.md section 5, 40_configure.md section 4, 42_commands.md section 4). -/

namespace Sys2Proof.Machine

open Sys2Proof.Spec

/-- What a completion writes beside STATUS and the latch: an error with the ITER_COUNT of WALK_LIMIT, or a success with the registers
that the command replaces (60_exceptions.md R201). -/
inductive Answer
  | error (e : ErrorCode) (iterCount : Option Word)
  | ok (cfg : Option Cfg) (result iterCount : Option Word)

/-- The completion that writes an answer. -/
def Answer.complete (s : State) : Answer → State
  | .error e k => raiseError e { s with iterCount := k.getD s.iterCount }
  | .ok cfg v k => completeOk { s with cfg := cfg.getD s.cfg, result := v.getD s.result, iterCount := k.getD s.iterCount }

/-- The answer of CONFIGURE (40_configure.md R100, R107). -/
def configureAnswer (c : Latched) : Answer :=
  match construct c.arg0 c.arg1 c.arg2 with
  | some cfg => .ok (some cfg) none none
  | none => .error .cfgOverflow none

/-- The answer of SHUFFLE and UNSHUFFLE (42_commands.md R161, R163). -/
def walkAnswer (fn : Word → Word) (cfg : Cfg) (m : Word) : Answer :=
  if cfg.rangeLen.toNat ≤ m.toNat then .error .indexRange none
  else
    match walk fn cfg m with
    | some (v, k) => .ok none (some v) (some (u64 k))
    | none => .error .walkLimit (some (u64 (domainSize cfg)))

/-- The answer of a command that checks its operand and then writes RESULT (42_commands.md R170 to R180). -/
def valueAnswer (refuse : Prop) [Decidable refuse] (e : ErrorCode) (v : Word) : Answer :=
  if refuse then .error e none else .ok none (some v) none

/-- The answer of a command. -/
def answer (i : Instr) (c : Latched) (cfg : Cfg) (sbox : Sbox) : Answer :=
  match i with
  | .configure => configureAnswer c
  | .shuffle => walkAnswer (encryptCore sbox cfg) cfg c.arg0
  | .unshuffle => walkAnswer (decryptCore sbox cfg) cfg c.arg0
  | .encrypt => valueAnswer (domainSize cfg ≤ c.arg0.toNat) .domainRange (encryptCore sbox cfg c.arg0)
  | .decrypt => valueAnswer (domainSize cfg ≤ c.arg0.toNat) .domainRange (decryptCore sbox cfg c.arg0)
  | .roundf =>
    valueAnswer (c.arg1.toNat < 1 ∨ 64 < c.arg1.toNat) .roundRange (roundF sbox cfg.seed c.arg1.toNat c.arg0)
  | .sboxrd => valueAnswer (255 < c.arg0.toNat) .sboxIndex (zext64 (sboxAt sbox (c.arg0.setWidth 8)))

theorem walkAnswer_complete (fn : Word → Word) (m : Word) (s : State) :
    (walkAnswer fn s.cfg m).complete s = walkCommand fn m s := by
  unfold walkAnswer walkCommand
  split
  · rfl
  · cases walk fn s.cfg m <;> rfl

theorem valueAnswer_complete (refuse : Prop) [Decidable refuse] (e : ErrorCode) (v : Word) (s : State) :
    (valueAnswer refuse e v).complete s = if refuse then raiseError e s else completeWith v s := by
  unfold valueAnswer
  split <;> rfl

/-- A command completes with its answer, whatever else the state holds. -/
theorem exec_eq_answer {s : State} {c : Latched} (i : Instr) (hc : s.latch = some c) :
    exec i s = .next ((answer i c s.cfg s.sbox).complete s) := by
  cases i with
  | configure =>
    rw [exec_configure hc, answer, configureAnswer]
    cases construct c.arg0 c.arg1 c.arg2 <;> rfl
  | shuffle => rw [exec_shuffle hc, answer, walkAnswer_complete]
  | unshuffle => rw [exec_unshuffle hc, answer, walkAnswer_complete]
  | encrypt => rw [exec_encrypt hc, answer, valueAnswer_complete]; rfl
  | decrypt => rw [exec_decrypt hc, answer, valueAnswer_complete]; rfl
  | roundf => rw [exec_roundf hc, answer, valueAnswer_complete]
  | sboxrd => rw [exec_sboxrd hc, answer, valueAnswer_complete]

/-- The answer of a latched word: its command's, or ILLEGAL_CMD (60_exceptions.md R202). -/
def wordAnswer (c : Latched) (cfg : Cfg) (sbox : Sbox) : Answer :=
  match decode c.word with
  | .ok i => answer i c cfg sbox
  | .error _ => .error .illegalCmd none

/-- An engine step completes with the answer of the latched word. -/
theorem step_eq_wordAnswer {s : State} {c : Latched} (hl : s.latch = some c) (hd : s.delay = 0) :
    step s = .next ((wordAnswer c s.cfg s.sbox).complete s) := by
  rw [step_engine hl hd, engineTurn, wordAnswer]
  cases decode c.word with
  | error r => rfl
  | ok i => exact exec_eq_answer i hl

/-- The same answer on two states gives the same error outcome. -/
theorem complete_error_outcome (w : Answer) (s₁ s₂ : State) :
    (w.complete s₁).status.err = (w.complete s₂).status.err ∧
      (w.complete s₁).status.errcode = (w.complete s₂).status.errcode := by
  cases w <;> exact ⟨rfl, rfl⟩

/-- The same answer on two states with one configuration leaves one configuration. -/
theorem complete_cfg_congr (w : Answer) {s₁ s₂ : State} (h : s₁.cfg = s₂.cfg) :
    (w.complete s₁).cfg = (w.complete s₂).cfg := by
  cases w with
  | error e k => exact h
  | ok cfg v k => exact congrArg cfg.getD h

/-- A command that is not CONFIGURE answers an error or a RESULT. -/
theorem answer_of_ne_configure {i : Instr} (hi : i ≠ .configure) (c : Latched) (cfg : Cfg) (sbox : Sbox) :
    (∃ e k, answer i c cfg sbox = .error e k) ∨ ∃ v k, answer i c cfg sbox = .ok none (some v) k := by
  have value (refuse : Prop) [Decidable refuse] (e : ErrorCode) (v : Word) :
      (∃ e' k, valueAnswer refuse e v = .error e' k) ∨ ∃ v' k, valueAnswer refuse e v = .ok none (some v') k := by
    unfold valueAnswer
    split
    · exact .inl ⟨_, _, rfl⟩
    · exact .inr ⟨_, _, rfl⟩
  have walks (fn : Word → Word) :
      (∃ e k, walkAnswer fn cfg c.arg0 = .error e k) ∨ ∃ v k, walkAnswer fn cfg c.arg0 = .ok none (some v) k := by
    unfold walkAnswer
    split
    · exact .inl ⟨_, _, rfl⟩
    · cases walk fn cfg c.arg0 with
      | none => exact .inl ⟨_, _, rfl⟩
      | some p => exact .inr ⟨_, _, rfl⟩
  cases i with
  | configure => exact absurd rfl hi
  | shuffle => exact walks _
  | unshuffle => exact walks _
  | encrypt => exact value _ _ _
  | decrypt => exact value _ _ _
  | roundf => exact value _ _ _
  | sboxrd => exact value _ _ _

/-- A walk that passes its operand check answers an ITER_COUNT. -/
theorem walkAnswer_iterCount (fn : Word → Word) (cfg : Cfg) (m : Word) (s₁ s₂ : State)
    (h : ((walkAnswer fn cfg m).complete s₁).status.errcode ≠ .indexRange) :
    ((walkAnswer fn cfg m).complete s₁).iterCount = ((walkAnswer fn cfg m).complete s₂).iterCount := by
  by_cases hle : cfg.rangeLen.toNat ≤ m.toNat
  · rw [walkAnswer, if_pos hle] at h
    exact absurd rfl h
  · rw [walkAnswer, if_neg hle]
    cases walk fn cfg m <;> rfl

/-- Settles O7: the engine step decodes the word, and nothing stands around the command's meaning. -/
theorem stepRunsTheDecodedCommand : Obligations.StepRunsTheDecodedCommand := by
  intro s c i hl hd hdec _
  simp only [step_engine hl hd, engineTurn, hdec]

/-- Settles O9: an idle or waiting block takes a host turn, and the engine step completes with the word's answer. -/
theorem everyStepAnswersNext : Obligations.EveryStepAnswersNext := by
  intro s
  cases hl : s.latch with
  | none => exact ⟨_, step_idle hl⟩
  | some c =>
    by_cases hd : s.delay = 0
    · exact ⟨_, step_eq_wordAnswer hl hd⟩
    · exact ⟨_, step_waiting hl hd⟩

/-- Settles O24: CONFIGURE's answer reads the three operands only. -/
theorem configureDependsOnOperandsAlone : Obligations.ConfigureDependsOnOperandsAlone := by
  intro s₁ s₂ t₁ t₂ c₁ c₂ hc₁ hc₂ h0 h1 h2 ht₁ ht₂
  rw [exec_eq_answer _ hc₁] at ht₁
  rw [exec_eq_answer _ hc₂] at ht₂
  cases ht₁
  cases ht₂
  simp only [answer, configureAnswer, h0, h1, h2]
  cases construct c₂.arg0 c₂.arg1 c₂.arg2 with
  | none => exact ⟨rfl, rfl, nofun⟩
  | some cfg => exact ⟨rfl, rfl, fun _ => rfl⟩

/-- Settles O50: both runs complete with one answer, which names RESULT on success and ITER_COUNT after a walk's operand check. -/
theorem answersDependOnlyOnConfigurationRomAndOperands : Obligations.AnswersDependOnlyOnConfigurationRomAndOperands := by
  intro i s₁ s₂ t₁ t₂ c hc₁ hc₂ hcfg hsbox ht₁ ht₂
  rw [exec_eq_answer _ hc₁] at ht₁
  rw [exec_eq_answer _ hc₂, ← hcfg, ← hsbox] at ht₂
  cases ht₁
  cases ht₂
  obtain ⟨herr, hcode⟩ := complete_error_outcome (answer i c s₁.cfg s₁.sbox) s₁ s₂
  refine ⟨herr, hcode, complete_cfg_congr _ hcfg, fun hok hi => ?_, fun hi hcheck => ?_⟩
  · obtain ⟨e, k, h⟩ | ⟨v, k, h⟩ := answer_of_ne_configure hi c s₁.cfg s₁.sbox
    · rw [h] at hok
      cases hok
    · rw [h]
      rfl
  · rcases hi with rfl | rfl <;> exact walkAnswer_iterCount _ _ _ _ _ hcheck

end Sys2Proof.Machine
end

section
/-! The host's side of a step, whichever input comes next, and from it and the engine step's answer the proofs about what outlives
steps: the command in flight, the configuration, ITER_COUNT and the sticky bits (10_state.md, 60_exceptions.md R201,
70_reset_and_hazards.md section 3). -/

namespace Sys2Proof.Machine

open Sys2Proof.Spec

/-- Either a host moves next, or the latency of the latched word has run out. -/
theorem hostMovesNext_or_engine (s : State) : hostMovesNext s ∨ ∃ c, s.latch = some c ∧ s.delay = 0 := by
  rcases Option.eq_none_or_eq_some s.latch with hl | ⟨c, hl⟩
  · exact .inl (.inl hl)
  · by_cases hd : s.delay = 0
    · exact .inr ⟨c, hl, hd⟩
    · exact .inl (.inr hd)

/-- When a host moves next, the step is a host turn with a step of the latency passed. -/
theorem step_of_hostMovesNext {s : State} (hm : hostMovesNext s) : step s = .next (hostTurn (taken s s.inputs)) := by
  rcases Option.eq_none_or_eq_some s.latch with hl | ⟨c, hl⟩
  · rw [step_idle hl, taken, if_pos hl]
  · have hne : s.latch ≠ none := by simp [hl]
    rw [step_waiting hl (hm.resolve_left hne), taken, if_neg hne]

/-- What `deliver_keeps` lists outlives every host turn that takes no reset. -/
theorem reset_or_keeps_of_hostMovesNext {s t : State} (hm : hostMovesNext s) (h : step s = .next t) :
    (∃ rest, s.inputs = .reset :: rest) ∨
      t.cfg = s.cfg ∧ t.result = s.result ∧ t.iterCount = s.iterCount ∧ t.sbox = s.sbox ∧
        t.status.errSticky = s.status.errSticky ∧ (s.status.overrun = true → t.status.overrun = true) := by
  rw [step_of_hostMovesNext hm] at h
  cases h
  by_cases hreset : ∃ rest, s.inputs = .reset :: rest
  · exact .inl hreset
  · exact .inr (hostTurn_keeps (s := taken s s.inputs) (not_exists.1 hreset))

/-- An engine step sets STATUS from its answer: OVERRUN keeps, and ERR_STICKY is up when it was, or when ERR is. -/
theorem step_engine_status {s t : State} {c : Latched} (hl : s.latch = some c) (hd : s.delay = 0) (h : step s = .next t) :
    t.status.overrun = s.status.overrun ∧ (s.status.errSticky = true ∨ t.status.err = true → t.status.errSticky = true) := by
  obtain ⟨e, -, rfl⟩ | ⟨cfg, result, iterCount, rfl, -⟩ := step_engine_completes hl hd h
  · exact ⟨rfl, fun _ => rfl⟩
  · exact ⟨rfl, fun hs => hs.resolve_right Bool.noConfusion⟩

/-- Nothing writes the ROM: neither a completion, nor a host input, nor reset. -/
theorem step_sbox {s t : State} (h : step s = .next t) : t.sbox = s.sbox := by
  rcases hostMovesNext_or_engine s with hm | ⟨c, hl, hd⟩
  · obtain ⟨rest, hin⟩ | ⟨-, -, -, hsbox, -⟩ := reset_or_keeps_of_hostMovesNext hm h
    · rw [step_reset hm hin] at h
      cases h
      rfl
    · exact hsbox
  · obtain ⟨e, -, rfl⟩ | ⟨cfg, result, iterCount, rfl, -⟩ := step_engine_completes hl hd h <;> rfl

/-- Settles O46: a host turn changes the configuration by reset only, and a completion only when it succeeds on CONFIGURE's word. -/
theorem onlyConfigureOrResetChangesTheConfiguration : Obligations.OnlyConfigureOrResetChangesTheConfiguration := by
  intro s t h
  refine ⟨step_sbox h, fun hne => ?_⟩
  rcases hostMovesNext_or_engine s with hm | ⟨c, hl, hd⟩
  · exact .inr ⟨hm, (reset_or_keeps_of_hostMovesNext hm h).resolve_right fun ⟨hcfg, _⟩ => hne hcfg⟩
  · obtain ⟨e, -, rfl⟩ | ⟨cfg, result, iterCount, rfl, hcfg, -⟩ := step_engine_completes hl hd h
    · exact absurd rfl hne
    · have hword : c.word.toNat = 1 := by
        by_contra hw
        exact hne (hcfg hw)
      exact .inl ⟨c, hl, hd, BitVec.eq_of_toNat_eq hword, rfl⟩

/-- A meaning that changes ITER_COUNT is a walk's, and completes without error or with WALK_LIMIT. -/
theorem exec_iterCount_ne {i : Instr} {s t : State} (h : exec i s = .next t) (hne : t.iterCount ≠ s.iterCount) :
    (i = .shuffle ∨ i = .unshuffle) ∧ t.status.done = true ∧ (t.status.err = false ∨ t.status.errcode = .walkLimit) := by
  obtain ⟨c, -, ⟨e, -, -, rfl⟩ | ⟨hi, rfl⟩ | ⟨-, cfg, -, rfl⟩ | ⟨hi, v, k, rfl⟩ | ⟨-, -, -, v, rfl⟩⟩ := exec_cases h
  · exact absurd rfl hne
  · exact ⟨hi, rfl, .inr rfl⟩
  · exact absurd rfl hne
  · exact ⟨hi, rfl, .inl rfl⟩
  · exact absurd rfl hne

/-- Settles O48: an illegal word keeps ITER_COUNT, a command changes it only as `exec_iterCount_ne` says, and a host turn only by
reset. -/
theorem iterCountChangesOnlyAtWalks : Obligations.IterCountChangesOnlyAtWalks := by
  intro s t h hne
  rcases hostMovesNext_or_engine s with hm | ⟨c, hl, hd⟩
  · exact .inr ⟨hm, (reset_or_keeps_of_hostMovesNext hm h).resolve_right fun ⟨_, _, hcount, _⟩ => hne hcount⟩
  · rw [step_engine hl hd] at h
    cases hdec : decode c.word with
    | error r =>
      rw [engineTurn_of_decode_error hdec] at h
      cases h
      exact absurd rfl hne
    | ok i =>
      obtain ⟨hi, hdone, hend⟩ := exec_iterCount_ne (by simpa only [engineTurn, hdec] using h) hne
      have hword : c.word.toNat = 2 ∨ c.word.toNat = 3 := by
        rw [toNat_eq_opcodeNumber_of_decode hdec]
        rcases hi with rfl | rfl
        · exact .inl rfl
        · exact .inr rfl
      exact .inl ⟨c, hl, hd, hword, hdone, hend⟩

/-- Settles O49: a host turn keeps ERR_STICKY unless it takes a reset; a completion keeps it, and sets it with ERR. -/
theorem errStickyClearsOnlyAtReset : Obligations.ErrStickyClearsOnlyAtReset := by
  intro s t h
  refine ⟨fun hset => ?_, fun hl hd herr => ?_⟩
  · rcases hostMovesNext_or_engine s with hm | ⟨c, hl, hd⟩
    · obtain hreset | ⟨-, -, -, -, hsticky, -⟩ := reset_or_keeps_of_hostMovesNext hm h
      · exact .inr ⟨hm, hreset⟩
      · exact .inl (hsticky.trans hset)
    · exact .inl ((step_engine_status hl hd h).2 (.inl hset))
  · obtain ⟨c, hl⟩ := Option.ne_none_iff_exists'.1 hl
    exact (step_engine_status hl hd h).2 (.inr herr)

/-- A host input gives itself back to the queue only as a poll (30_encoding.md R78). -/
theorem deliver_inputs (i : HostInput) (s : State) : (deliver i s).inputs = s.inputs ∨ (deliver i s).inputs = .poll :: s.inputs := by
  cases i with
  | reset => exact .inl rfl
  | read off width =>
    simp only [deliver, hostRead]
    split <;> exact .inl rfl
  | poll =>
    simp only [deliver]
    split
    · exact .inr rfl
    · exact .inl rfl
  | write off width v =>
    simp only [deliver, hostWrite]
    split
    · next r _ =>
      cases r with
      | cmd =>
        simp only [writeReg, writeCmd]
        split <;> exact .inl rfl
      | _ => exact .inl rfl
    · exact .inl rfl

/-- The command in flight in `s`, and all that its engine step reads or keeps, stand in `s'` too. -/
structure SameFlight (s s' : State) : Prop where
  latch : s'.latch = s.latch
  cfg : s'.cfg = s.cfg
  sbox : s'.sbox = s.sbox
  result : s'.result = s.result
  iterCount : s'.iterCount = s.iterCount
  errSticky : s'.status.errSticky = s.status.errSticky

theorem SameFlight.refl (s : State) : SameFlight s s := ⟨rfl, rfl, rfl, rfl, rfl, rfl⟩

theorem SameFlight.trans {s s' s'' : State} (h : SameFlight s s') (h' : SameFlight s' s'') : SameFlight s s'' :=
  ⟨h'.latch.trans h.latch, h'.cfg.trans h.cfg, h'.sbox.trans h.sbox, h'.result.trans h.result, h'.iterCount.trans h.iterCount,
    h'.errSticky.trans h.errSticky⟩

/-- A host turn leaves the command in flight as it is, when no reset is among the inputs. -/
theorem hostTurn_keeps_flight {s : State} (hb : s.status.busy = true) (hr : HostInput.reset ∉ s.inputs) :
    SameFlight s (hostTurn s) ∧ (hostTurn s).delay = s.delay ∧ (hostTurn s).status.busy = true ∧
      HostInput.reset ∉ (hostTurn s).inputs := by
  cases hin : s.inputs with
  | nil =>
    rw [hostTurn_nil hin]
    exact ⟨.refl s, rfl, hb, hr⟩
  | cons i rest =>
    rw [hostTurn_cons hin]
    rw [hin, List.mem_cons, not_or] at hr
    obtain ⟨hi, hrest⟩ := hr
    obtain ⟨hcfg, hresult, hcount, hsbox, hsticky, -⟩ := deliver_keeps i { s with inputs := rest } (Ne.symm hi)
    obtain ⟨hlatch, hbusy, hdelay⟩ := deliver_keeps_command_in_flight i { s with inputs := rest } (Ne.symm hi) hb
    refine ⟨⟨hlatch, hcfg, hsbox, hresult, hcount, hsticky⟩, hdelay, hbusy, ?_⟩
    rcases deliver_inputs i { s with inputs := rest } with hq | hq
    · rwa [hq]
    · rw [hq]
      exact List.not_mem_cons_of_ne_of_not_mem nofun hrest

theorem run_succ {M : Host.Core} {s s' : M.State} (k : Nat) (h : M.step s = .next s') : M.run (k + 1) s = M.run k s' := by
  simp only [Host.Core.run, h]

/-- A command in flight runs, once its latency has passed, on what was latched with it. -/
theorem run_of_waiting {c : Latched} :
    ∀ (d : Nat) (s : State), s.latch = some c → s.delay = d → s.status.busy = true → HostInput.reset ∉ s.inputs →
      ∃ s', SameFlight s s' ∧ Host.Core.run Sys2Proof.core (d + 1) s = .next ((wordAnswer c s.cfg s.sbox).complete s')
  | 0, s, hl, hd, _, _ => ⟨s, .refl s, run_succ (M := Sys2Proof.core) 0 (step_eq_wordAnswer hl hd)⟩
  | d + 1, s, hl, hd, hb, hr => by
    have hstep : step s = .next (hostTurn { s with delay := d }) := by
      rw [step_waiting hl (by omega), hd, Nat.add_sub_cancel]
    obtain ⟨hturn, hd₁, hb₁, hr₁⟩ := hostTurn_keeps_flight (s := { s with delay := d }) hb hr
    have hsame : SameFlight s (hostTurn { s with delay := d }) :=
      .trans (s' := { s with delay := d }) ⟨rfl, rfl, rfl, rfl, rfl, rfl⟩ hturn
    obtain ⟨s', hsame', hrun⟩ := run_of_waiting d _ (hsame.latch.trans hl) hd₁ hb₁ hr₁
    rw [hsame.cfg, hsame.sbox] at hrun
    exact ⟨s', hsame.trans hsame', (run_succ (M := Sys2Proof.core) _ hstep).trans hrun⟩

/-- Settles O11: the waiting command and the one run at once complete with one answer, on states that agree on all it keeps. -/
theorem completionIgnoresLatencyAndHostTraffic : Obligations.CompletionIgnoresLatencyAndHostTraffic := by
  intro s c hl hb hr
  obtain ⟨s', ⟨-, hcfg, hsbox, hresult, hcount, hsticky⟩, hrun⟩ := run_of_waiting s.delay s hl rfl hb hr
  refine ⟨_, _, hrun, step_eq_wordAnswer (s := { s with delay := 0 }) hl rfl, ?_⟩
  cases wordAnswer c s.cfg s.sbox with
  | error e k => exact ⟨rfl, rfl, rfl, hcfg, hresult, congrArg k.getD hcount, rfl, rfl, rfl, hsbox⟩
  | ok cfg v k =>
    exact ⟨rfl, rfl, rfl, congrArg cfg.getD hcfg, congrArg v.getD hresult, congrArg k.getD hcount, rfl, rfl, hsticky, hsbox⟩

end Sys2Proof.Machine
end

section
/-! The moduli's bounds, the configurations CONFIGURE builds, and from them the proofs about the post-adjustment and about the
invariant that every step keeps (40_configure.md section 3, 10_state.md R21, R26, R33). -/

namespace Sys2Proof.Machine

open Sys2Proof.Spec

/-- From a root of 11 on, two increments give `(r - 2) * (r + 5) ≥ (r + 1)^2` (40_configure.md R106). -/
theorem two_increments_suffice {n : Nat} (hn : n < 2 ^ 64) (hroot : 11 ≤ Nat.sqrt n) :
    n < (startModuli n).1 * ((startModuli n).2 + 2) := by
  have h9 : 9 ≤ n := by
    have := Nat.sqrt_le_self n
    omega
  rw [startModuli_of_nine_le h9, isqrt_eq_sqrt hn]
  obtain ⟨k, hk⟩ := Nat.exists_eq_add_of_le hroot
  calc n < (Nat.sqrt n + 1) * (Nat.sqrt n + 1) := Nat.lt_succ_sqrt n
    _ ≤ (Nat.sqrt n - 2) * (Nat.sqrt n + 3 + 2) := by
      rw [hk, show 11 + k - 2 = 9 + k by omega]
      nlinarith

/-- The final `b` is its start and at most 10 more (40_configure.md R106). -/
theorem moduli_snd_bounds {n : Nat} (hn : n < 2 ^ 64) : startB n ≤ (moduli n).2 ∧ (moduli n).2 ≤ startB n + 10 := by
  rcases Nat.eq_zero_or_pos n with rfl | hpos
  · decide
  · obtain ⟨-, hstart, -, hmax, -⟩ := moduli_spec hpos.ne' hn
    rw [startModuli_eq hn] at hstart hmax
    exact ⟨hstart, hmax⟩

/-- The bound of ten is met at 15 (40_configure.md R106). -/
theorem moduli_fifteen : (moduli 15).2 = startB 15 + 10 := by
  have hstart : startModuli 15 = (startA 15, startB 15) := startModuli_eq (by decide)
  have hten : (moduli 15).2 = (startModuli 15).2 + 10 := by decide
  rw [hten, hstart]

/-- Settles O22: the loop ends with coverage and with the least such `b`, and from a root of 11 on two increments cover. -/
theorem postAdjustmentAddsAtMostTen : Obligations.PostAdjustmentAddsAtMostTen := by
  refine ⟨fun n => moduli_snd_bounds, fun n hn h0 => ?_, moduli_fifteen, fun n hn hroot => ?_⟩
  · obtain ⟨-, -, hcover, -⟩ := moduli_spec h0 hn
    exact hcover
  · have h0 : n ≠ 0 := by
      rintro rfl
      simp at hroot
    obtain ⟨-, -, -, -, hleast⟩ := moduli_spec h0 hn
    have hle := hleast _ (Nat.le_add_right _ 2) (two_increments_suffice hn hroot)
    rwa [startModuli_eq hn] at hle

/-- Settles O23: the table is computed entry by entry. -/
theorem smallRangeFinalModuli : Obligations.SmallRangeFinalModuli := by
  unfold Obligations.SmallRangeFinalModuli
  decide

/-- The starting moduli are in order, and only those of 0 are 0. -/
theorem startModuli_ordered {n : Nat} (hpos : 0 < n) (hn : n < 2 ^ 64) :
    1 ≤ (startModuli n).1 ∧ (startModuli n).1 ≤ (startModuli n).2 := by
  rcases Nat.lt_or_ge n 9 with h | h
  · interval_cases n <;> decide
  · have h3 : 3 ≤ isqrt n := by
      rw [isqrt_eq_sqrt hn]
      exact Nat.le_sqrt.2 h
    rw [startModuli_of_nine_le h]
    constructor <;> simp only <;> omega

/-- The stored round count is at most 64 (40_configure.md R101). -/
theorem clampRounds_toInt_le (req : Word) : (clampRounds req).toInt ≤ 64 := by
  unfold clampRounds
  split
  · decide
  · next h => exact Int.not_lt.1 h

/-- The moduli of a range length from 1 up to the last accepted operand are those of case (ii) of 10_state.md R21. -/
theorem moduli_ranged {n : Nat} (hpos : 0 < n) (hn : n < 0xFFFFFFFFFFFFFFF7) :
    1 ≤ (moduli n).1 ∧ (moduli n).1 ≤ (moduli n).2 ∧ n < (moduli n).1 * (moduli n).2 ∧ (moduli n).1 * (moduli n).2 < 2 ^ 64 ∧
      (moduli n).2 ≤ 2 ^ 32 + 3 := by
  have hn64 : n < 2 ^ 64 := by omega
  obtain ⟨ha, hb, hcover, -, hleast⟩ := moduli_spec hpos.ne' hn64
  obtain ⟨hone, hordered⟩ := startModuli_ordered hpos hn64
  obtain ⟨-, hbmax, hfits⟩ := startModuli_within_largest hpos hn
  exact ⟨ha ▸ hone, ha ▸ hordered.trans hb, hcover, (moduli_product_lt_iff hn64).2 hn, hleast _ hbmax hfits⟩

/-- Every configuration CONFIGURE builds is legal (10_state.md R21). -/
theorem construct_legal {n req seed : Word} {c : Cfg} (h : construct n req seed = some c) : c.Legal := by
  have hlt : n.toNat < 0xFFFFFFFFFFFFFFF7 := by
    by_contra hge
    rw [construct_of_overflow req seed (Nat.not_lt.1 hge)] at h
    cases h
  rw [construct_of_lt req seed hlt] at h
  cases h
  refine ⟨?_, clampRounds_toInt_le req⟩
  rcases Nat.eq_zero_or_pos n.toNat with h0 | hpos
  · exact .inl (by simp [Cfg.Empty, h0])
  · obtain ⟨hone, hordered, hcover, hproduct, hbmax⟩ := moduli_ranged hpos hlt
    have ha : (u64 (moduli n.toNat).1).toNat = (moduli n.toNat).1 := u64_toNat_of_lt (by omega)
    have hb : (u64 (moduli n.toNat).2).toNat = (moduli n.toNat).2 := u64_toNat_of_lt (by omega)
    refine .inr ?_
    simp only [Cfg.Ranged, ha, hb]
    exact ⟨hpos, hone, hordered, hcover, hproduct, hbmax⟩

theorem cfgReset_legal : Cfg.reset.Legal := by decide

/-- Reset leaves the empty configuration, the cleared STATUS and an empty latch. -/
theorem resetBlock_inv (s : State) : (resetBlock s).Inv :=
  ⟨cfgReset_legal, by simp [State.StatusLegal, Status.reset]⟩

/-- Settles O2: the reset state is the reset block of itself. -/
theorem resetStateMeetsTheInvariant : Obligations.ResetStateMeetsTheInvariant :=
  resetBlock_inv State.reset

/-- The invariant speaks of the configuration, STATUS and the latch only. -/
theorem inv_congr {s t : State} (hcfg : t.cfg = s.cfg) (hstatus : t.status = s.status) (hlatch : t.latch = s.latch)
    (hs : s.Inv) : t.Inv := by
  simpa only [State.Inv, State.StatusLegal, hcfg, hstatus, hlatch] using hs

theorem completeOk_inv {s : State} (h : s.cfg.Legal) : (completeOk s).Inv :=
  ⟨h, by simp [State.StatusLegal]⟩

theorem raiseError_inv {e : ErrorCode} (he : e ≠ .none) {s : State} (h : s.cfg.Legal) : (raiseError e s).Inv :=
  ⟨h, by simp [State.StatusLegal, he]⟩

theorem accept_inv (w : Word) {s : State} (h : s.cfg.Legal) : (accept w s).Inv :=
  ⟨h, by simp [State.StatusLegal]⟩

theorem markOverrun_inv {s : State} (h : s.Inv) : (markOverrun s).Inv := h

theorem respond_inv (r : Response) {s : State} (h : s.Inv) : (respond r s).Inv := h

/-- A CMD write accepts or drops; any other write leaves all that the invariant speaks of. -/
theorem writeReg_inv (r : RegName) (v : Word) {s : State} (h : s.Inv) : (writeReg r v s).Inv := by
  cases r with
  | cmd =>
    simp only [writeReg, writeCmd]
    split
    · exact markOverrun_inv h
    · exact accept_inv v h.1
  | _ => exact inv_congr rfl rfl rfl h

theorem deliver_inv (i : HostInput) {s : State} (h : s.Inv) : (deliver i s).Inv := by
  cases i with
  | reset => exact resetBlock_inv s
  | read off width =>
    simp only [deliver, hostRead]
    split <;> exact respond_inv _ h
  | poll =>
    simp only [deliver]
    split <;> exact inv_congr rfl rfl rfl h
  | write off width v =>
    simp only [deliver, hostWrite]
    split
    · next r _ => exact respond_inv _ (writeReg_inv r v h)
    · exact respond_inv _ h

theorem hostTurn_inv {s : State} (h : s.Inv) : (hostTurn s).Inv := by
  cases hin : s.inputs with
  | nil => rwa [hostTurn_nil hin]
  | cons i rest =>
    rw [hostTurn_cons hin]
    exact deliver_inv i (inv_congr rfl rfl rfl h)

/-- Every meaning raises a named error, or completes with the configuration it had or one CONFIGURE built. -/
theorem exec_inv {i : Instr} {s t : State} (hs : s.cfg.Legal) (h : exec i s = .next t) : t.Inv := by
  obtain ⟨c, -, ⟨e, he, -, rfl⟩ | ⟨-, rfl⟩ | ⟨-, cfg, hcfg, rfl⟩ | ⟨-, v, k, rfl⟩ | ⟨-, -, -, v, rfl⟩⟩ := exec_cases h
  · exact raiseError_inv he hs
  · exact raiseError_inv (by decide) hs
  · exact completeOk_inv (construct_legal hcfg)
  · exact completeOk_inv hs
  · exact completeOk_inv hs

/-- Settles O3: of the four things a step can be, a command and an illegal word complete, and a host turn keeps the invariant
whatever input it takes. -/
theorem everyStepKeepsTheInvariant : Obligations.EveryStepKeepsTheInvariant := by
  intro s t hs h
  obtain ⟨c, i, -, -, -, hexec⟩ | ⟨c, r, -, -, -, rfl⟩ | ⟨-, rfl⟩ | ⟨c, -, -, rfl⟩ := step_cases h
  · exact exec_inv hs.1 hexec
  · exact raiseError_inv (by decide) hs.1
  · exact hostTurn_inv hs
  · exact hostTurn_inv (inv_congr rfl rfl rfl hs)

end Sys2Proof.Machine
end

section
/-! Each kind of host access as it is delivered, and from it the proofs about writes, bus errors, the poll and the bus window
(20_memory.md R50 to R55, 10_state.md R25, R33, 70_reset_and_hazards.md R241, 30_encoding.md R78). -/

namespace Sys2Proof.Machine

open Sys2Proof.Spec

/-- A legal write is acknowledged and has its register's effect (20_memory.md R52). -/
theorem deliver_write_regOffset (r : RegName) (v : Word) (s : State) :
    deliver (.write (regOffset r) 8 v) s = answered .ack (writeReg r v s) := by
  simp only [deliver, hostWrite, accessTarget_regOffset]
  rfl

/-- The step that takes a legal write. -/
theorem step_write {s : State} {rest : List HostInput} {v : Word} (r : RegName) (hm : hostMovesNext s)
    (hin : s.inputs = .write (regOffset r) 8 v :: rest) : step s = .next (answered .ack (writeReg r v (taken s rest))) := by
  rw [step_eq_deliver_taken hm hin, deliver_write_regOffset]

/-- The register that is ARG number `k`. -/
def argName (k : Fin 3) : RegName := if k = 0 then .arg0 else if k = 1 then .arg1 else .arg2

theorem argOffset_eq (k : Fin 3) : argOffset k = regOffset (argName k) := by
  revert k
  decide

theorem readReg_argName (k : Fin 3) (s : State) : readReg (argName k) s = argReg s k := by
  fin_cases k <;> rfl

theorem writeReg_argName (k : Fin 3) (v : Word) (s : State) : writeReg (argName k) v s = withArg s k v := by
  fin_cases k <;> rfl

theorem argReg_withArg (k : Fin 3) (v : Word) (s : State) : argReg (withArg s k v) k = v := by
  fin_cases k <;> rfl

/-- An acknowledgement and the storing of an ARG register do not meet. -/
theorem answered_withArg (w : Response) (k : Fin 3) (v : Word) (s : State) :
    answered w (withArg s k v) = withArg (answered w s) k v := by
  fin_cases k <;> rfl

/-- What ARG number `k` holds after a write: the value, if it is that register's, and else what it held. -/
theorem argReg_writeReg (r : RegName) (v : Word) (s : State) (k : Fin 3) :
    argReg (writeReg r v s) k = if r = argName k then v else argReg s k := by
  cases r with
  | cmd =>
    rw [if_neg (by revert k; decide), writeReg, writeCmd]
    split <;> rfl
  | _ => fin_cases k <;> rfl

theorem writeReg_argReg_ne {r : RegName} {v : Word} {s : State} {k : Fin 3} (h : argReg (writeReg r v s) k ≠ argReg s k) :
    r = argName k := by
  by_contra hr
  exact h (by rw [argReg_writeReg, if_neg hr])

/-- A host input changes ARG number `k` only by reset or a write of that register with its new value. -/
theorem deliver_argReg_ne {i : HostInput} {s : State} {k : Fin 3} (h : argReg (deliver i s) k ≠ argReg s k) :
    i = .reset ∨ i = .write (argOffset k) 8 (argReg (deliver i s) k) := by
  cases i with
  | reset => exact .inl rfl
  | read off width =>
    refine absurd ?_ h
    simp only [deliver, hostRead]
    split <;> rfl
  | poll =>
    refine absurd ?_ h
    simp only [deliver]
    split <;> rfl
  | write off width v =>
    refine .inr ?_
    cases hr : accessTarget off width with
    | none =>
      simp only [deliver, hostWrite, hr] at h
      exact absurd rfl h
    | some r =>
      obtain ⟨rfl, rfl⟩ := (accessTarget_eq_some_iff off width r).1 hr
      rw [deliver_write_regOffset] at h ⊢
      obtain rfl : r = argName k := writeReg_argReg_ne h
      rw [← argOffset_eq, writeReg_argName, answered_withArg, argReg_withArg]

/-- A completion keeps the ARG registers. -/
theorem complete_argReg (w : Answer) (s : State) (k : Fin 3) : argReg (w.complete s) k = argReg s k := by
  cases w <;> rfl

/-- Settles O13: the three registers are `argName`; a step that changes one is a host's, and `deliver_argReg_ne` says of which
input. -/
theorem argRegistersArePlainStorage : Obligations.ArgRegistersArePlainStorage := by
  refine ⟨fun s rest k v hm hin => ?_, fun s rest k hm hin => ?_, fun s t k h hne => ?_⟩
  · rw [argOffset_eq] at hin
    rw [step_write _ hm hin, writeReg_argName, answered_withArg]
  · rw [argOffset_eq] at hin
    rw [step_eq_deliver_taken hm hin, deliver_read_regOffset, readReg_taken, readReg_argName]
  · rcases hostMovesNext_or_engine s with hm | ⟨c, hl, hd⟩
    · refine ⟨hm, ?_⟩
      cases hin : s.inputs with
      | nil =>
        rw [step_of_hostMovesNext hm, hostTurn_nil (s := taken s s.inputs) hin] at h
        cases h
        exact absurd rfl hne
      | cons i rest =>
        rw [step_eq_deliver_taken hm hin] at h
        cases h
        exact ⟨rest, (deliver_argReg_ne (s := taken s rest) hne).imp (congrArg (· :: rest)) (congrArg (· :: rest))⟩
    · rw [step_eq_wordAnswer hl hd] at h
      cases h
      exact absurd (complete_argReg _ s k) hne

/-- Settles O14: the write reaches CMD, and a CMD write with BUSY = 0 is `accept`. -/
theorem cmdWriteWhenIdleLatchesTheCommand : Obligations.CmdWriteWhenIdleLatchesTheCommand := by
  intro s rest v hm hin hidle
  have haccept : writeReg .cmd v (taken s rest) = accept v (taken s rest) := if_neg (by simp [taken, hidle])
  refine ⟨Config.latency s.draws, ?_⟩
  rw [step_write .cmd hm hin, haccept]
  rfl

/-- Settles O15: a CMD write with BUSY = 1 is `markOverrun`; neither a completion nor a host input but reset clears OVERRUN. -/
theorem cmdWriteWhileBusyOnlySetsOverrun : Obligations.CmdWriteWhileBusyOnlySetsOverrun := by
  refine ⟨fun s rest v hm hin hbusy => ?_, fun s t hset h => ?_⟩
  · have hdrop : writeReg .cmd v (taken s rest) = markOverrun (taken s rest) := if_pos hbusy
    rw [step_write .cmd hm hin, hdrop]
    rfl
  · rcases hostMovesNext_or_engine s with hm | ⟨c, hl, hd⟩
    · obtain hreset | ⟨-, -, -, -, -, hkeeps⟩ := reset_or_keeps_of_hostMovesNext hm h
      · exact .inr ⟨hm, hreset⟩
      · exact .inl (hkeeps hset)
    · obtain ⟨hoverrun, -⟩ := step_engine_status hl hd h
      exact .inl (hoverrun.trans hset)

/-- The offsets of the read-only registers, with writes that do nothing (20_memory.md R54). -/
theorem exists_readOnly_register {off : Offset}
    (h : off ∈ ([0x08, 0x28, 0x30, 0x38, 0x40, 0x48, 0x50, 0x58] : List Offset)) :
    ∃ r, off = regOffset r ∧ ∀ (v : Word) (s : State), writeReg r v s = s := by
  simp only [List.mem_cons, List.not_mem_nil, or_false] at h
  obtain rfl | rfl | rfl | rfl | rfl | rfl | rfl | rfl := h
  exacts [⟨.status, rfl, fun _ _ => rfl⟩, ⟨.result, rfl, fun _ _ => rfl⟩, ⟨.rangeLen, rfl, fun _ _ => rfl⟩,
    ⟨.rounds, rfl, fun _ _ => rfl⟩, ⟨.seed, rfl, fun _ _ => rfl⟩, ⟨.a, rfl, fun _ _ => rfl⟩, ⟨.b, rfl, fun _ _ => rfl⟩,
    ⟨.iterCount, rfl, fun _ _ => rfl⟩]

/-- Settles O16: each of the eight offsets is that of a register whose write does nothing. -/
theorem writesToReadOnlyRegistersAreIgnored : Obligations.WritesToReadOnlyRegistersAreIgnored := by
  intro s rest off v hm hoff hin
  obtain ⟨r, rfl, hnothing⟩ := exists_readOnly_register hoff
  rw [step_write r hm hin, hnothing]

/-- An illegal access reaches no register (20_memory.md R53). -/
theorem accessTarget_of_not_legalAccess {off : Offset} {width : Nat} (h : ¬legalAccess off width) :
    accessTarget off width = none := by
  rw [accessTarget_eq_none_iff]
  unfold legalAccess at h
  omega

/-- Settles O17: an access that reaches no register is answered with a bus error, read or write. -/
theorem illegalAccessIsABusErrorAndChangesNothing : Obligations.IllegalAccessIsABusErrorAndChangesNothing := by
  intro s rest off width v hm hillegal hin
  have htarget := accessTarget_of_not_legalAccess hillegal
  rcases hin with hin | hin
  · rw [step_eq_deliver_taken hm hin]
    simp only [deliver, hostRead, htarget]
    rfl
  · rw [step_eq_deliver_taken hm hin]
    simp only [deliver, hostWrite, htarget]
    rfl

/-- Settles O18: a poll answers STATUS's word and puts itself back exactly when BUSY is up. -/
theorem pollReadsStatusUntilNotBusy : Obligations.PollReadsStatusUntilNotBusy := by
  intro s rest hm hin
  rw [step_eq_deliver_taken hm hin, ← status_word_eq_ofNat_statusNumber]
  by_cases hbusy : s.status.busy = true
  · rw [if_pos hbusy]
    exact congrArg _ (if_pos hbusy)
  · rw [if_neg hbusy]
    exact congrArg _ (if_neg hbusy)

/-- BASE leaves room for the window below the end of the bus (20_memory.md R50). -/
theorem base_toNat : base.toNat = Config.baseBlock.toNat * 128 := by
  rw [base, BitVec.toNat_append]
  simp [Nat.shiftLeft_eq]

theorem base_toNat_add_lt (off : Offset) : base.toNat + off.toNat < 2 ^ 64 := by
  have := Config.baseBlock.isLt
  have := off.isLt
  rw [base_toNat]
  omega

theorem busAddress_toNat (off : Offset) : (busAddress off).toNat = base.toNat + off.toNat := by
  rw [busAddress, BitVec.toNat_add, BitVec.toNat_setWidth_of_le (by decide), Nat.mod_eq_of_lt (base_toNat_add_lt off)]

/-- An address of the window leads back to its offset. -/
theorem windowOffset_busAddress (off : Offset) : windowOffset (busAddress off) = some off := by
  have hoff := off.isLt
  rw [windowOffset, busAddress_toNat, if_pos (by omega), Nat.add_sub_cancel_left, BitVec.ofNat_toNat, BitVec.setWidth_eq]

/-- Settles O19: BASE ends in seven zero bits, so the window does not wrap and its offsets are differences from BASE; eight bytes
carry the word. -/
theorem windowIsExactly128BytesAtBase : Obligations.WindowIsExactly128BytesAtBase := by
  refine ⟨?_, fun off => ⟨busAddress_toNat off, windowOffset_busAddress off⟩, fun addr => ?_, fun off v => ⟨?_, ?_⟩⟩
  · rw [base_toNat, Nat.mul_mod_left]
  · rw [windowOffset, ite_eq_right_iff]
    simp only [reduceCtorEq, imp_false]
    omega
  · rw [busRead, windowOffset_busAddress]
    rfl
  · rw [busWrite, windowOffset_busAddress, wordOfBytes_bytesOfWord]
    rfl

end Sys2Proof.Machine
end

section
/-! The bits of the round function and the residues of the modular unit, and from them the proofs about 41_datapath.md sections 2
and 3. -/

namespace Sys2Proof.Machine

open Sys2Proof.Spec

/-- The key mix is a rotation; round 64 shifts by 64 and by 0 (41_datapath.md R122). -/
theorem mixed_eq_rotateLeft (seed x : Word) {j : Nat} (h1 : 1 ≤ j) (h64 : j ≤ 64) :
    mixed seed j x = x ^^^ seed.rotateLeft (j % 64) := by
  have hdisjoint : seed <<< j ^^^ seed >>> (64 - j) = seed.rotateLeft (j % 64) := by
    apply BitVec.eq_of_getLsbD_eq
    intro i hi
    rcases Nat.eq_or_lt_of_le h64 with rfl | hlt
    · simp [hi]
    · rw [Nat.mod_eq_of_lt hlt, BitVec.getLsbD_rotateLeft, Nat.mod_eq_of_lt hlt]
      by_cases hij : i < j
      · simp [hij]
      · simp [hij, hi, BitVec.getLsbD_of_ge seed (64 - j + i) (by omega), BitVec.getLsbD_eq_getElem (show i - j < 64 by omega)]
  rw [mixed, shl64_eq_shiftLeft, shr64_eq_ushiftRight, BitVec.xor_assoc, hdisjoint]

/-- A lane is a byte of the mixed operand, with the seed's low byte and the round's mixed in (41_datapath.md R123). -/
theorem lane_eq_bytes (rr seed : Word) (j n : Nat) :
    lane rr seed j n = rr.extractLsb' (8 * n) 8 ^^^ seed.extractLsb' 0 8 ^^^ BitVec.ofNat 8 j := by
  apply BitVec.eq_of_toNat_eq
  rw [lane_toNat]
  simp [BitVec.toNat_xor, Nat.xor_mod_two_pow (n := 8)]

/-- A substituted value placed at bit `k` shows its bits there. -/
theorem zext64_shiftLeft_getLsbD_inside (b : Byte) {k i : Nat} (hk : k ≤ i) (hi : i < k + 8) (h64 : i < 64) :
    (zext64 b <<< k).getLsbD i = b.getLsbD (i - k) := by
  rw [BitVec.getLsbD_shiftLeft, zext64, BitVec.getLsbD_setWidth]
  simp [h64, Nat.not_lt.2 hk, show i - k < 64 by omega]

/-- The bits of a recombination by the places where its values land: in bits 31 to 23 two of them mix, everywhere else at most one
shows (41_datapath.md R125). -/
theorem recombine_zext64_bits {v : Nat → Byte} {f : Word} (hf : f = recombine fun n => zext64 (v n)) :
    (∀ i, 0 ≤ i → i < 8 → f.getLsbD i = (v 0).getLsbD (i - 0)) ∧ (∀ i, 8 ≤ i → i < 16 → f.getLsbD i = (v 1).getLsbD (i - 8)) ∧
      (∀ i, 16 ≤ i → i < 23 → f.getLsbD i = (v 2).getLsbD (i - 16)) ∧
      f.getLsbD 23 = ((v 2).getLsbD 7 ^^ (v 4).getLsbD 0) ∧
      (∀ i, 24 ≤ i → i < 31 → f.getLsbD i = ((v 3).getLsbD (i - 24) ^^ (v 4).getLsbD (i - 23))) ∧
      f.getLsbD 31 = ((v 3).getLsbD 7 ^^ (v 5).getLsbD 0) ∧
      (∀ i, 32 ≤ i → i < 39 → f.getLsbD i = (v 5).getLsbD (i - 31)) ∧
      (∀ i, 49 ≤ i → i < 57 → f.getLsbD i = (v 6).getLsbD (i - 49)) ∧
      ∀ i, 57 ≤ i → i < 64 → f.getLsbD i = (v 7).getLsbD (i - 57) := by
  rw [hf, recombine_eq_placed]
  refine ⟨?_, ?_, ?_, ?_, ?_, ?_, ?_, ?_, ?_⟩ <;> intros <;>
    simp (disch := omega) only [BitVec.getLsbD_xor, BitVec.getLsbD_or, zext64_shiftLeft_getLsbD_inside,
      zext64_shiftLeft_getLsbD_outside, Bool.or_false, Bool.false_or, Bool.xor_false, Bool.false_xor]

/-- The round function is the recombination of the substituted lanes, the lanes being bytes of the rotated mix. -/
theorem roundF_eq_recombine (t : Sbox) (seed x : Word) {j : Nat} (h1 : 1 ≤ j) (h64 : j ≤ 64) :
    roundF t seed j x = recombine fun n => zext64
      (t.get ((x ^^^ seed.rotateLeft (j % 64)).extractLsb' (8 * n) 8 ^^^ seed.extractLsb' 0 8 ^^^ BitVec.ofNat 8 j).toFin) := by
  simp only [roundF, lane_eq_bytes, mixed_eq_rotateLeft seed x h1 h64]
  rfl

/-- A field of a word is a field of a byte when their bits agree. -/
theorem extractLsb'_eq_of_bits {f : Word} {b : Byte} {lo len k : Nat} (hk : k ≤ lo)
    (h : ∀ i, lo ≤ i → i < lo + len → f.getLsbD i = b.getLsbD (i - k)) : f.extractLsb' lo len = b.extractLsb' (lo - k) len := by
  apply BitVec.eq_of_getLsbD_eq
  intro i hi
  rw [BitVec.getLsbD_extractLsb', BitVec.getLsbD_extractLsb', h (lo + i) (by omega) (by omega), Nat.sub_add_comm hk]

/-- Settles O28: `recombine_zext64_bits` on the lanes, bit by bit for each field. -/
theorem roundFunctionBitTable : Obligations.RoundFunctionBitTable := by
  intro t seed x j h1 h64 rr s f
  have hf : f = recombine fun n => zext64 (s n) := roundF_eq_recombine t seed x h1 h64
  have whole (n : Nat) : (s n).extractLsb' 0 8 = s n := BitVec.extractLsb'_eq_self
  obtain ⟨h0, h8, h16, h23, h24, h31, h32, h49, h57⟩ := recombine_zext64_bits hf
  refine ⟨?_, ?_, extractLsb'_eq_of_bits (le_refl 16) h16, h23, ?_, h31, extractLsb'_eq_of_bits (Nat.le_succ 31) h32, ?_, ?_,
    extractLsb'_eq_of_bits (le_refl 57) h57⟩
  · exact (extractLsb'_eq_of_bits (le_refl 0) h0).trans (whole 0)
  · exact (extractLsb'_eq_of_bits (le_refl 8) h8).trans (whole 1)
  · apply BitVec.eq_of_getLsbD_eq
    intro i hi
    rw [BitVec.getLsbD_extractLsb', h24 _ (by omega) (by omega), BitVec.getLsbD_xor, BitVec.getLsbD_extractLsb',
      BitVec.getLsbD_extractLsb', Nat.add_sub_cancel_left, show 24 + i - 23 = 1 + i by omega, Nat.zero_add]
    simp [hi]
  · rw [hf]
    exact recombine_zext64_gap s
  · exact (extractLsb'_eq_of_bits (le_refl 49) h49).trans (whole 6)

/-- A number below the modulus that differs from `x` by a multiple of it is the residue of `x`. -/
theorem eq_emod_of_eq_add_mul {x y m : Int} (q : Int) (h : x = y + m * q) (h0 : 0 ≤ y) (hlt : y < m) : y = x % m := by
  rw [h, Int.add_mul_emod_self_left, Int.emod_eq_of_lt h0 hlt]

/-- Settles O30: in each branch the answer is a multiple of `M` away from the difference: by the quotient of its size, and one more
where the branch takes the remainder from `M`. -/
theorem subModIsTheMathematicalResidue : Obligations.SubModIsTheMathematicalResidue := by
  intro r t m hm
  have hlt := subMod_lt r t m (by omega)
  have hval := subMod_toNat r t m (by omega)
  have hback := Nat.div_add_mod (t.toNat - r.toNat) m.toNat
  have hrem : (t.toNat - r.toNat) % m.toNat < m.toNat := Nat.mod_lt _ hm
  have hforth := Nat.div_add_mod (r.toNat - t.toNat) m.toNat
  have cast (d : Nat) : (m.toNat : Int) * (d / m.toNat : Nat) = (m.toNat * (d / m.toNat) : Nat) := (Nat.cast_mul ..).symm
  have multiple : ∃ q : Int, (r.toNat : Int) - t.toNat = (subMod r t m).toNat + m.toNat * q := by
    split at hval
    · split at hval
      · exact ⟨-((t.toNat - r.toNat) / m.toNat : Nat), by rw [mul_neg, cast]; omega⟩
      · exact ⟨-((t.toNat - r.toNat) / m.toNat : Nat) - 1, by rw [mul_sub, mul_neg, cast]; omega⟩
    · exact ⟨((r.toNat - t.toNat) / m.toNat : Nat), by rw [cast]; omega⟩
  obtain ⟨q, hq⟩ := multiple
  exact eq_emod_of_eq_add_mul q hq (Int.natCast_nonneg _) (Int.ofNat_lt.2 hlt)

theorem subMod_emod (r t m : Word) (hm : m.toNat ≠ 0) :
    ((subMod r t m).toNat : Int) = ((r.toNat : Int) - t.toNat) % m.toNat :=
  subModIsTheMathematicalResidue r t m (Nat.one_le_iff_ne_zero.2 hm)

theorem addMod_emod (l f m : Word) (hm : m.toNat ≠ 0) :
    ((addMod l f m).toNat : Int) = ((l.toNat : Int) + f.toNat) % m.toNat := by
  rw [addMod_toNat l f m hm]
  push_cast
  rfl

/-- The modular subtraction undoes the modular addition below the modulus. -/
theorem subMod_addMod {l m : Word} (f : Word) (hl : l.toNat < m.toNat) : subMod (addMod l f m) f m = l := by
  have hm : m.toNat ≠ 0 := Nat.ne_zero_of_lt hl
  apply BitVec.eq_of_toNat_eq
  zify
  rw [subMod_emod _ _ _ hm, addMod_emod _ _ _ hm, Int.emod_sub_emod, add_sub_cancel_right,
    Int.emod_eq_of_lt (Int.natCast_nonneg _) (Int.ofNat_lt.2 hl)]

/-- The modular addition undoes the modular subtraction below the modulus. -/
theorem addMod_subMod {r m : Word} (f : Word) (hr : r.toNat < m.toNat) : addMod (subMod r f m) f m = r := by
  have hm : m.toNat ≠ 0 := Nat.ne_zero_of_lt hr
  apply BitVec.eq_of_toNat_eq
  zify
  rw [addMod_emod _ _ _ hm, subMod_emod _ _ _ hm, Int.emod_add_emod, sub_add_cancel,
    Int.emod_eq_of_lt (Int.natCast_nonneg _) (Int.ofNat_lt.2 hr)]

/-- A word whose bits 48 to 39 are 0 is at most the word of all the other bits. -/
theorem toNat_le_of_gap {f : Word} (h : f.extractLsb' 39 10 = 0) : f.toNat ≤ 0xFFFE007FFFFFFFFF := by
  have hf := f.isLt
  have hgap : f.toNat / 2 ^ 39 % 2 ^ 10 = 0 := by
    simpa [BitVec.extractLsb'_toNat, Nat.shiftRight_eq_div_pow] using congrArg BitVec.toNat h
  omega

theorem roundF_toNat_le (t : Sbox) (seed : Word) (j : Nat) (x : Word) : (roundF t seed j x).toNat ≤ 0xFFFE007FFFFFFFFF :=
  toNat_le_of_gap (recombine_zext64_gap _)

/-- Settles O29: F's gap bounds it, so the sum with a half fits 64 bits; `subMod_addMod` undoes the addition. -/
theorem roundAdditionNeverWrapsAndIsUndone : Obligations.RoundAdditionNeverWrapsAndIsUndone := by
  intro t seed x l m j _ _ hl hm
  have hF := roundF_toNat_le t seed j x
  exact ⟨hF, by omega, addMod_toNat _ _ _ (Nat.ne_zero_of_lt hl), subMod_addMod _ hl⟩

end Sys2Proof.Machine
end

section
/-! The core as a split, its rounds, an un-swap and a join, each undone by its inverse, and from them the proofs about the core's
range, its inverse law and its degenerate cases (41_datapath.md section 4, 42_commands.md section 5). -/

namespace Sys2Proof.Machine

open Sys2Proof.Spec

/-- The un-swap by the parity of the stored round count (41_datapath.md R137, R142). -/
def unswap (c : Cfg) (h : Halves) : Halves := if odd c.rounds then { rr := h.ll, ll := h.rr } else h

/-- The halves joined to a value of the domain (41_datapath.md R130). -/
def join (c : Cfg) (h : Halves) : Word := combine c h.rr h.ll

theorem unswap_of_odd {c : Cfg} (ho : odd c.rounds = true) (h : Halves) : unswap c h = { rr := h.ll, ll := h.rr } := if_pos ho

theorem unswap_of_not_odd {c : Cfg} (ho : ¬odd c.rounds = true) (h : Halves) : unswap c h = h := if_neg ho

@[simp] theorem unswap_unswap (c : Cfg) (h : Halves) : unswap c (unswap c h) = h := by
  by_cases ho : odd c.rounds = true
  · rw [unswap_of_odd ho, unswap_of_odd ho]
  · rw [unswap_of_not_odd ho, unswap_of_not_odd ho]

theorem decryptStart_eq_unswap (c : Cfg) (m : Word) : decryptStart c m = unswap c (encryptStart c m) := rfl

theorem encryptCore_eq_join (t : Sbox) (c : Cfg) (m : Word) : encryptCore t c m = join c (unswap c (encryptEnd t c m)) := by
  by_cases ho : odd c.rounds = true
  · rw [encryptCore_of_odd t m ho, unswap_of_odd ho, join]
  · rw [encryptCore_of_not_odd t m ho, unswap_of_not_odd ho, join]

theorem decryptCore_eq_join (t : Sbox) (c : Cfg) (m : Word) :
    decryptCore t c m = join c (decryptRounds t c (roundCount c) (decryptStart c m)) := rfl

/-- Swapped or not, halves that fit somewhere still fit somewhere. -/
theorem unswap_fits_somewhere {c : Cfg} {j : Nat} {h : Halves} (hf : HalvesFit c j h) : ∃ i, HalvesFit c i (unswap c h) := by
  by_cases ho : odd c.rounds = true
  · rw [unswap_of_odd ho]
    exact ⟨j + 1, hf.swap⟩
  · rw [unswap_of_not_odd ho]
    exact ⟨j, hf⟩

theorem join_toNat {c : Cfg} {j : Nat} {h : Halves} (hc : c.Ranged) (hf : HalvesFit c j h) :
    (join c h).toNat = c.a.toNat * h.rr.toNat + h.ll.toNat := combine_toNat hc hf

theorem join_lt_domain {c : Cfg} {j : Nat} {h : Halves} (hc : c.Ranged) (hf : HalvesFit c j h) :
    (join c h).toNat < c.a.toNat * c.b.toNat := by
  rw [join_toNat hc hf]
  exact combine_exact_lt_domain hc hf

/-- Encrypt keeps the domain, for every stored round count. -/
theorem encryptCore_lt_domain (t : Sbox) {c : Cfg} {m : Word} (hc : c.Ranged) (hm : m.toNat < c.a.toNat * c.b.toNat) :
    (encryptCore t c m).toNat < c.a.toNat * c.b.toNat := by
  obtain ⟨i, hf⟩ := unswap_fits_somewhere (encryptEnd_fits t hc hm)
  rw [encryptCore_eq_join]
  exact join_lt_domain hc hf

/-- Decrypt keeps the domain, for every stored round count. -/
theorem decryptCore_lt_domain (t : Sbox) {c : Cfg} {m : Word} (hc : c.Ranged) (hm : m.toNat < c.a.toNat * c.b.toNat) :
    (decryptCore t c m).toNat < c.a.toNat * c.b.toNat := by
  obtain ⟨j, hf⟩ := decryptRounds_decryptStart_fits t hc hm
  exact join_lt_domain hc hf

/-- A core command that reports no error had its operand in the domain, and answers the core's value. -/
theorem coreCommand_ok {fn : Word → Word} {m : Word} {s : State} (h : (coreCommand fn m s).status.err = false) :
    m.toNat < s.cfg.a.toNat * s.cfg.b.toNat ∧ (coreCommand fn m s).result = fn m := by
  rcases Nat.lt_or_ge m.toNat (s.cfg.a.toNat * s.cfg.b.toNat) with hlt | hge
  · exact ⟨hlt, by rw [coreCommand_of_lt fn hlt]; rfl⟩
  · rw [coreCommand_of_le fn hge] at h
    cases h

/-- Settles O33: a command without error answers a core's value of an operand in the domain, and the cores keep the domain. -/
theorem coreResultsStayInTheDomain : Obligations.CoreResultsStayInTheDomain := by
  intro s t c i hc hlegal hi ht herr
  rcases hi with rfl | rfl
  · rw [exec_encrypt hc] at ht
    cases ht
    obtain ⟨hlt, hresult⟩ := coreCommand_ok herr
    rw [hresult]
    exact encryptCore_lt_domain s.sbox (ranged_of_lt_domain hlegal hlt) hlt
  · rw [exec_decrypt hc] at ht
    cases ht
    obtain ⟨hlt, hresult⟩ := coreCommand_ok herr
    rw [hresult]
    exact decryptCore_lt_domain s.sbox (ranged_of_lt_domain hlegal hlt) hlt

theorem halves_eq_of_toNat {h g : Halves} (hrr : h.rr.toNat = g.rr.toNat) (hll : h.ll.toNat = g.ll.toNat) : h = g := by
  cases h
  cases g
  exact congrArg₂ Halves.mk (BitVec.eq_of_toNat_eq hrr) (BitVec.eq_of_toNat_eq hll)

/-- Splitting undoes joining on halves that fit before round 1. -/
theorem encryptStart_join {c : Cfg} {h : Halves} (hc : c.Ranged) (hf : HalvesFit c 0 h) : encryptStart c (join c h) = h := by
  have hvalue := join_toNat hc hf
  obtain ⟨-, hll⟩ := (halvesFit_even_iff rfl).1 hf
  apply halves_eq_of_toNat
  · rw [encryptStart_rr_toNat, hvalue, Nat.mul_add_div (Nat.zero_lt_of_lt hll), Nat.div_eq_of_lt hll, Nat.add_zero]
  · rw [encryptStart_ll_toNat, hvalue, Nat.mul_add_mod, Nat.mod_eq_of_lt hll]

/-- Joining undoes splitting. -/
theorem join_encryptStart (c : Cfg) (m : Word) : join c (encryptStart c m) = m := by
  rw [join, combine, encryptStart_rr_toNat, encryptStart_ll_toNat, Nat.div_add_mod, u64_of_toNat]

theorem decryptRound_encryptRound (t : Sbox) {c : Cfg} {j : Nat} {h : Halves} (hf : HalvesFit c j h) :
    decryptRound t c (j + 1) (encryptRound t c (j + 1) h) = h := by
  obtain ⟨-, hll⟩ := hf
  simp only [decryptRound, encryptRound, subMod_addMod _ hll]

theorem encryptRound_decryptRound (t : Sbox) {c : Cfg} {j : Nat} {h : Halves} (hf : HalvesFit c j h) :
    encryptRound t c j (decryptRound t c j h) = h := by
  obtain ⟨hrr, -⟩ := hf
  simp only [decryptRound, encryptRound, addMod_subMod _ hrr]

theorem decryptRounds_encryptRounds (t : Sbox) {c : Cfg} (hc : c.Ranged) (n : Nat) {h : Halves} (hf : HalvesFit c 0 h) :
    decryptRounds t c n (encryptRounds t c n h) = h := by
  induction n with
  | zero => rfl
  | succ j ih => rw [encryptRounds, decryptRounds, decryptRound_encryptRound t (encryptRounds_fits hc j hf), ih]

theorem encryptRounds_decryptRounds (t : Sbox) {c : Cfg} (hc : c.Ranged) (n : Nat) {h : Halves} (hf : HalvesFit c n h) :
    encryptRounds t c n (decryptRounds t c n h) = h := by
  induction n generalizing h with
  | zero => rfl
  | succ j ih => rw [encryptRounds, decryptRounds, ih (decryptRound_fits hc hf), encryptRound_decryptRound t hf]

/-- With a count of 0 or more the number of rounds that run has the parity of the stored count. -/
theorem odd_rounds_iff_of_nonneg {c : Cfg} (h : 0 ≤ c.rounds.toInt) : odd c.rounds = true ↔ roundCount c % 2 = 1 := by
  rw [odd_rounds_iff, roundsOdd, roundCount_eq_roundsRun, roundsRun]
  omega

/-- The fit of halves depends on the parity of the index only. -/
theorem halvesFit_zero_of_even {c : Cfg} {j : Nat} {h : Halves} (hj : j % 2 = 0) (hf : HalvesFit c j h) : HalvesFit c 0 h :=
  (halvesFit_even_iff rfl).2 ((halvesFit_even_iff hj).1 hf)

/-- The un-swap brings halves back to where they fit before round 1. -/
theorem unswap_fits {c : Cfg} {j : Nat} {h : Halves} (hj : odd c.rounds = true ↔ j % 2 = 1) (hf : HalvesFit c j h) :
    HalvesFit c 0 (unswap c h) := by
  by_cases ho : odd c.rounds = true
  · rw [unswap_of_odd ho]
    have := hj.1 ho
    exact halvesFit_zero_of_even (by omega) hf.swap
  · rw [unswap_of_not_odd ho]
    have := mt hj.2 ho
    exact halvesFit_zero_of_even (by omega) hf

/-- Decrypt undoes Encrypt on the domain (41_datapath.md section 4). -/
theorem decryptCore_encryptCore (t : Sbox) {c : Cfg} {m : Word} (hc : c.Ranged) (hr : 0 ≤ c.rounds.toInt)
    (hm : m.toNat < c.a.toNat * c.b.toNat) : decryptCore t c (encryptCore t c m) = m := by
  have hparity := odd_rounds_iff_of_nonneg hr
  have hstart : decryptStart c (encryptCore t c m) = encryptEnd t c m := by
    rw [decryptStart_eq_unswap, encryptCore_eq_join, encryptStart_join hc (unswap_fits hparity (encryptEnd_fits t hc hm)),
      unswap_unswap]
  rw [decryptCore_eq_join, hstart, encryptEnd, decryptRounds_encryptRounds t hc _ (encryptStart_fits hc hm), join_encryptStart]

/-- Encrypt undoes Decrypt on the domain (41_datapath.md section 4). -/
theorem encryptCore_decryptCore (t : Sbox) {c : Cfg} {m : Word} (hc : c.Ranged) (hr : 0 ≤ c.rounds.toInt)
    (hm : m.toNat < c.a.toNat * c.b.toNat) : encryptCore t c (decryptCore t c m) = m := by
  have hfit := decryptStart_fits hc hm (odd_rounds_iff_of_nonneg hr)
  have hend : encryptEnd t c (decryptCore t c m) = decryptStart c m := by
    rw [encryptEnd, decryptCore_eq_join, encryptStart_join hc (decryptRounds_fits hc _ _ hfit),
      encryptRounds_decryptRounds t hc _ hfit]
  rw [encryptCore_eq_join, hend, decryptStart_eq_unswap, unswap_unswap, join_encryptStart]

theorem exec_encrypt_of_lt {s : State} {c : Latched} (hc : s.latch = some c) (h : c.arg0.toNat < s.cfg.a.toNat * s.cfg.b.toNat) :
    exec .encrypt s = .next (succeeded { s with result := encryptCore s.sbox s.cfg c.arg0 }) := by
  rw [exec_encrypt hc, coreCommand_of_lt _ h]

theorem exec_decrypt_of_lt {s : State} {c : Latched} (hc : s.latch = some c) (h : c.arg0.toNat < s.cfg.a.toNat * s.cfg.b.toNat) :
    exec .decrypt s = .next (succeeded { s with result := decryptCore s.sbox s.cfg c.arg0 }) := by
  rw [exec_decrypt hc, coreCommand_of_lt _ h]

/-- Settles O34: either command leaves a value of the domain, and the cores undo each other there. -/
theorem coreCommandsAreInverse : Obligations.CoreCommandsAreInverse := by
  intro s t u c d i hi hc hlegal _ hrounds hlt ht hcfg hsbox hd hoperand
  have hranged := ranged_of_lt_domain hlegal hlt
  rcases hi with rfl | rfl
  · rw [exec_encrypt_of_lt hc hlt] at ht
    cases ht
    have hback : exec .decrypt u = .next (succeeded { u with result := decryptCore u.sbox u.cfg d.arg0 }) :=
      exec_decrypt_of_lt hd (by rw [hoperand, hcfg]; exact encryptCore_lt_domain s.sbox hranged hlt)
    refine ⟨_, hback, rfl, ?_⟩
    rw [hoperand, hcfg, hsbox]
    exact decryptCore_encryptCore s.sbox hranged hrounds hlt
  · rw [exec_decrypt_of_lt hc hlt] at ht
    cases ht
    have hback : exec .encrypt u = .next (succeeded { u with result := encryptCore u.sbox u.cfg d.arg0 }) :=
      exec_encrypt_of_lt hd (by rw [hoperand, hcfg]; exact decryptCore_lt_domain s.sbox hranged hlt)
    refine ⟨_, hback, rfl, ?_⟩
    rw [hoperand, hcfg, hsbox]
    exact encryptCore_decryptCore s.sbox hranged hrounds hlt

/-- With a stored count of 0 or less no round runs (41_datapath.md R141). -/
theorem roundCount_of_nonpos {c : Cfg} (h : c.rounds.toInt ≤ 0) : roundCount c = 0 := Int.toNat_of_nonpos h

theorem encryptCore_of_nonpos (t : Sbox) {c : Cfg} (m : Word) (h : c.rounds.toInt ≤ 0) :
    encryptCore t c m = join c (unswap c (encryptStart c m)) := by
  rw [encryptCore_eq_join, encryptEnd, roundCount_of_nonpos h, encryptRounds]

/-- With no round to run the two cores are one. -/
theorem decryptCore_of_nonpos (t : Sbox) {c : Cfg} (m : Word) (h : c.rounds.toInt ≤ 0) : decryptCore t c m = encryptCore t c m := by
  rw [encryptCore_of_nonpos t m h, decryptCore_eq_join, roundCount_of_nonpos h, decryptRounds, decryptStart_eq_unswap]

/-- With 0 or a negative even count the core joins what it split. -/
theorem encryptCore_of_nonpos_even (t : Sbox) {c : Cfg} (m : Word) (h : c.rounds.toInt ≤ 0) (heven : c.rounds.toInt % 2 = 0) :
    encryptCore t c m = m := by
  have ho : ¬odd c.rounds = true := by
    rw [odd_rounds_iff, roundsOdd]
    omega
  rw [encryptCore_of_nonpos t m h, unswap_of_not_odd ho, join_encryptStart]

/-- With a negative odd count the core exchanges the halves it split. -/
theorem encryptCore_of_nonpos_odd (t : Sbox) {c : Cfg} (m : Word) (h : c.rounds.toInt ≤ 0) (hodd : c.rounds.toInt % 2 = 1) :
    encryptCore t c m = BitVec.ofNat 64 (c.a.toNat * (m.toNat % c.a.toNat) + m.toNat / c.a.toNat) := by
  rw [encryptCore_of_nonpos t m h, unswap_of_odd ((odd_rounds_iff c).2 hodd), join, combine, encryptStart_rr_toNat,
    encryptStart_ll_toNat, u64]

/-- Settles O35: with no round to run the two cores are one, the identity or the exchange of the halves. -/
theorem degenerateRoundCountsOfTheCore : Obligations.DegenerateRoundCountsOfTheCore := by
  intro s c hc _ hlt hrounds
  rw [exec_encrypt_of_lt hc hlt, exec_decrypt_of_lt hc hlt, decryptCore_of_nonpos _ _ hrounds]
  refine ⟨fun heven => ?_, fun hodd => ?_⟩
  · rw [encryptCore_of_nonpos_even _ _ hrounds heven]
    exact ⟨rfl, rfl⟩
  · rw [encryptCore_of_nonpos_odd _ _ hrounds hodd]
    exact ⟨rfl, rfl⟩

end Sys2Proof.Machine
end

section
/-! The core for `a = 1`: the odd rounds clear a half and the even ones add F of 0 to the other, and from it the proof about the
rotation (41_datapath.md section 4, "Degenerate moduli"). -/

namespace Sys2Proof.Machine

open Sys2Proof.Spec

/-- What the even rounds up to `n` add when the other half is 0: the sum of their F at operand 0. -/
def evenRoundSum (t : Sbox) (seed : Word) (n : Nat) : Nat :=
  (((List.range (n + 1)).filter fun j => 2 ≤ j && j % 2 == 0).map fun j => (roundF t seed j 0).toNat).sum

@[simp] theorem evenRoundSum_zero (t : Sbox) (seed : Word) : evenRoundSum t seed 0 = 0 := rfl

theorem evenRoundSum_succ_odd (t : Sbox) (seed : Word) {n : Nat} (h : (n + 1) % 2 = 1) :
    evenRoundSum t seed (n + 1) = evenRoundSum t seed n := by
  rw [evenRoundSum, List.range_succ, List.filter_append, List.filter_singleton]
  simp [evenRoundSum, h]

theorem evenRoundSum_succ_even (t : Sbox) (seed : Word) {n : Nat} (h : (n + 1) % 2 = 0) :
    evenRoundSum t seed (n + 1) = evenRoundSum t seed n + (roundF t seed (n + 1) 0).toNat := by
  rw [evenRoundSum, List.range_succ, List.filter_append, List.filter_singleton]
  simp [evenRoundSum, h, show 2 ≤ n + 1 by omega]

/-- With `a = 1` one half is 0 after every round, and the halves' sum is the operand moved on modulo `b`. -/
theorem encryptRounds_sum_of_a_one (t : Sbox) {c : Cfg} {m : Word} (hc : c.Ranged) (ha : c.a.toNat = 1) (hm : m.toNat < c.b.toNat)
    (n : Nat) :
    (encryptRounds t c n (encryptStart c m)).rr.toNat + (encryptRounds t c n (encryptStart c m)).ll.toNat =
      (m.toNat + evenRoundSum t c.seed n) % c.b.toNat := by
  have hfits (j : Nat) : HalvesFit c j (encryptRounds t c j (encryptStart c m)) :=
    encryptRounds_fits hc j (encryptStart_fits hc (by rwa [ha, Nat.one_mul]))
  induction n with
  | zero =>
    rw [encryptRounds, encryptStart_rr_toNat, encryptStart_ll_toNat, ha, Nat.div_one, Nat.mod_one, evenRoundSum_zero]
    exact (Nat.mod_eq_of_lt hm).symm
  | succ j ih =>
    have hbefore := hfits j
    have hafter := hfits (j + 1)
    rw [encryptRounds] at hafter ⊢
    generalize encryptRounds t c j (encryptStart c m) = h at *
    rcases Nat.mod_two_eq_zero_or_one j with hj | hj
    · obtain ⟨-, hll⟩ := (halvesFit_even_iff hj).1 hbefore
      obtain ⟨hrr, -⟩ := (halvesFit_odd_iff (by omega)).1 hafter
      rw [evenRoundSum_succ_odd t c.seed (by omega), ← ih, encryptRound_ll]
      omega
    · obtain ⟨hrr, -⟩ := (halvesFit_odd_iff hj).1 hbefore
      have hzero : h.rr.toNat = 0 := by omega
      have hword : h.rr = 0 := BitVec.eq_of_toNat_eq hzero
      have hb : c.b.toNat ≠ 0 := by omega
      rw [hzero, Nat.zero_add] at ih
      rw [evenRoundSum_succ_even t c.seed (by omega), encryptRound_ll, encryptRound_rr, modulus_even (by omega),
        addMod_toNat _ _ _ hb, hzero, hword, ih, Nat.add_zero, Nat.mod_add_mod, Nat.add_assoc]

/-- With `a = 1` a join is the sum of the halves, swapped or not. -/
theorem join_unswap_of_a_one {c : Cfg} {j : Nat} {h : Halves} (hc : c.Ranged) (ha : c.a.toNat = 1) (hf : HalvesFit c j h) :
    (join c (unswap c h)).toNat = h.rr.toNat + h.ll.toNat := by
  obtain ⟨i, hf'⟩ := unswap_fits_somewhere hf
  rw [join_toNat hc hf', ha, Nat.one_mul]
  by_cases ho : odd c.rounds = true
  · rw [unswap_of_odd ho, Nat.add_comm]
  · rw [unswap_of_not_odd ho]

/-- With `a = 1` Encrypt is a rotation of `[0, b)`. -/
theorem encryptCore_of_a_one (t : Sbox) {c : Cfg} {m : Word} (hc : c.Ranged) (ha : c.a.toNat = 1) (hm : m.toNat < c.b.toNat) :
    (encryptCore t c m).toNat = (m.toNat + evenRoundSum t c.seed (roundCount c) % c.b.toNat) % c.b.toNat := by
  have hfit := encryptEnd_fits t hc (by rwa [ha, Nat.one_mul] : m.toNat < c.a.toNat * c.b.toNat)
  rw [encryptCore_eq_join, join_unswap_of_a_one hc ha hfit, encryptEnd, encryptRounds_sum_of_a_one t hc ha hm, Nat.add_mod_mod]

/-- With `a = 1` Decrypt is the rotation back: with rounds to run it undoes Encrypt, and with none it is Encrypt and rotates by 0. -/
theorem decryptCore_of_a_one (t : Sbox) {c : Cfg} {m : Word} (hc : c.Ranged) (ha : c.a.toNat = 1) (hm : m.toNat < c.b.toNat) :
    (decryptCore t c m).toNat =
      (m.toNat + c.b.toNat - evenRoundSum t c.seed (roundCount c) % c.b.toNat) % c.b.toNat := by
  have hk : evenRoundSum t c.seed (roundCount c) % c.b.toNat < c.b.toNat := Nat.mod_lt _ (Nat.zero_lt_of_lt hm)
  rcases Int.le_total 0 c.rounds.toInt with hpos | hneg
  · generalize hx : (m.toNat + c.b.toNat - evenRoundSum t c.seed (roundCount c) % c.b.toNat) % c.b.toNat = x
    have hxlt : x < c.b.toNat := hx ▸ Nat.mod_lt _ (Nat.zero_lt_of_lt hm)
    have hx64 : (u64 x).toNat = x := u64_toNat_of_lt (hxlt.trans c.b.isLt)
    have hxb : (u64 x).toNat < c.b.toNat := by rwa [hx64]
    have hback : encryptCore t c (u64 x) = m := by
      apply BitVec.eq_of_toNat_eq
      rw [encryptCore_of_a_one t hc ha hxb, hx64, ← hx, Nat.mod_add_mod, Nat.sub_add_cancel (by omega), Nat.add_mod_right,
        Nat.mod_eq_of_lt hm]
    have hdomain : (u64 x).toNat < c.a.toNat * c.b.toNat := by rwa [ha, Nat.one_mul]
    rw [← hback, decryptCore_encryptCore t hc hpos hdomain, hx64]
  · rw [decryptCore_of_nonpos t m hneg, encryptCore_of_a_one t hc ha hm, roundCount_of_nonpos hneg, evenRoundSum_zero, Nat.zero_mod,
      Nat.sub_zero, Nat.add_zero, Nat.add_mod_right]

/-- Settles O36: these moduli are ranged, so the two commands answer the rotations of `encryptCore_of_a_one` and
`decryptCore_of_a_one`. -/
theorem coreIsARotationWhenAIsOne : Obligations.CoreIsARotationWhenAIsOne := by
  intro s c n hc hlo hhi hn ha hb _ hm
  have hranged : s.cfg.Ranged := by
    simp only [Cfg.Ranged, hn, ha, hb]
    omega
  have hlt : c.arg0.toNat < s.cfg.a.toNat * s.cfg.b.toNat := by rwa [ha, Nat.one_mul, hb]
  refine ⟨evenRoundSum s.sbox s.cfg.seed (roundCount s.cfg) % (n + 1), rfl, ?_, ?_⟩
  · rw [exec_encrypt_of_lt hc hlt, ← hb, ← encryptCore_of_a_one s.sbox hranged ha (hb ▸ hm)]
    exact congrArg (fun v => Host.Outcome.next (succeeded { s with result := v })) (u64_of_toNat _).symm
  · rw [exec_decrypt_of_lt hc hlt, ← hb, ← decryptCore_of_a_one s.sbox hranged ha (hb ▸ hm)]
    exact congrArg (fun v => Host.Outcome.next (succeeded { s with result := v })) (u64_of_toNat _).symm

end Sys2Proof.Machine
end

section
/-! The walk by its first landing, the walks of an invertible function, and from them the proofs about SHUFFLE and UNSHUFFLE
(42_commands.md sections 1 to 4). -/

namespace Sys2Proof.Machine

open Sys2Proof.Spec

/-- A landing within the limit is what the walk answers (42_commands.md R160). -/
theorem walk_of_landsAt {fn : Word → Word} {c : Cfg} {m : Word} {k : Nat} (hk : k ≤ c.a.toNat * c.b.toNat)
    (h : landsAt fn c.rangeLen m k) : walk fn c m = some (fn^[k] m, k) := by
  obtain ⟨hpos, hlands, hfirst⟩ := h
  exact (walk_eq_some_iff ..).2 ⟨hpos, hk, rfl, hlands, hfirst⟩

/-- An operand in range starts the walk over the command's core (42_commands.md R161, R164). -/
theorem exec_walk_of_lt {s : State} {c : Latched} {i : Instr} (hi : i = .shuffle ∨ i = .unshuffle) (hc : s.latch = some c)
    (hlt : c.arg0.toNat < s.cfg.rangeLen.toNat) : exec i s = .next (completeWalk (walk (coreOf i s) s.cfg c.arg0) s) := by
  rcases hi with rfl | rfl
  · rw [exec_shuffle hc, walkCommand, if_neg (Nat.not_le.2 hlt)]
    rfl
  · rw [exec_unshuffle hc, walkCommand, if_neg (Nat.not_le.2 hlt)]
    rfl

/-- Settles O37: `walk_of_landsAt` and the walk's limit, with the completions they lead to. -/
theorem walkEndsAtFirstLandingOrAtTheLimit : Obligations.WalkEndsAtFirstLandingOrAtTheLimit := by
  refine ⟨fun fn s m => ⟨fun k hk hlands => ?_, fun hnone => ?_⟩, fun s c i => exec_walk_of_lt⟩
  · rw [walk_of_landsAt hk hlands]
    rfl
  · rw [(walk_eq_none_iff fn s.cfg m).2 hnone]
    rfl

/-- A walk command whose core lands on its `k`-th application within the limit. -/
theorem exec_walk_of_landsAt {s : State} {c : Latched} {i : Instr} {k : Nat} (hi : i = .shuffle ∨ i = .unshuffle)
    (hc : s.latch = some c) (hlt : c.arg0.toNat < s.cfg.rangeLen.toNat) (hk : k ≤ s.cfg.a.toNat * s.cfg.b.toNat)
    (h : landsAt (coreOf i s) s.cfg.rangeLen c.arg0 k) :
    exec i s = .next (succeeded { s with result := (coreOf i s)^[k] c.arg0, iterCount := BitVec.ofNat 64 k }) := by
  rw [exec_walk_of_lt hi hc hlt, walk_of_landsAt hk h]
  rfl

/-- An application that lands in range at once. -/
theorem landsAt_one {fn : Word → Word} {n x : Word} (h : (fn x).toNat < n.toNat) : landsAt fn n x 1 :=
  ⟨le_refl 1, h, fun i h1 h2 => by omega⟩

theorem landsAt_two {fn : Word → Word} {n x : Word} (h1 : n.toNat ≤ (fn x).toNat) (h2 : (fn (fn x)).toNat < n.toNat) :
    landsAt fn n x 2 := by
  refine ⟨one_le_two, h2, fun i hpos hlt => ?_⟩
  obtain rfl : i = 1 := by omega
  exact h1

theorem landsAt_unique {fn : Word → Word} {n x : Word} {k l : Nat} (hk : landsAt fn n x k) (hl : landsAt fn n x l) : k = l := by
  obtain ⟨hkpos, hkin, hkfirst⟩ := hk
  obtain ⟨hlpos, hlin, hlfirst⟩ := hl
  rcases Nat.lt_trichotomy k l with hlt | heq | hgt
  · exact absurd hkin (Nat.not_lt.2 (hlfirst k hkpos hlt))
  · exact heq
  · exact absurd hlin (Nat.not_lt.2 (hkfirst l hlpos hgt))

/-- `gn` undoes `fn` on the words below `D`, and `fn` keeps them below `D`. -/
structure UndoneBelow (D : Nat) (fn gn : Word → Word) : Prop where
  stays : ∀ x, x.toNat < D → (fn x).toNat < D
  undo : ∀ x, x.toNat < D → gn (fn x) = x

theorem UndoneBelow.iterate_stays {D : Nat} {fn gn : Word → Word} (h : UndoneBelow D fn gn) {x : Word} (hx : x.toNat < D)
    (i : Nat) : (fn^[i] x).toNat < D := by
  induction i with
  | zero => exact hx
  | succ i ih =>
    rw [Function.iterate_succ_apply']
    exact h.stays _ ih

/-- `i` steps back from `i + j` steps on are `j` steps on. -/
theorem UndoneBelow.iterate_undo {D : Nat} {fn gn : Word → Word} (h : UndoneBelow D fn gn) {x : Word} (hx : x.toNat < D)
    (i j : Nat) : gn^[i] (fn^[i + j] x) = fn^[j] x := by
  induction i with
  | zero => rw [Nat.zero_add, Function.iterate_zero_apply]
  | succ i ih =>
    rw [Nat.add_right_comm, Function.iterate_succ_apply, Function.iterate_succ_apply', h.undo _ (h.iterate_stays hx _), ih]

/-- A walk that does not come back to its start has no value twice. -/
theorem UndoneBelow.no_repeat {D : Nat} {fn gn : Word → Word} (h : UndoneBelow D fn gn) {x : Word} (hx : x.toNat < D) {i j : Nat}
    (hij : i < j) (heq : fn^[i] x = fn^[j] x) : fn^[j - i] x = x := by
  have hback := h.iterate_undo hx i 0
  rw [Nat.add_zero, heq, Function.iterate_zero_apply] at hback
  have hforth := h.iterate_undo hx i (j - i)
  rw [Nat.add_sub_cancel' hij.le] at hforth
  exact hforth.symm.trans hback

/-- More applications than there are values out of range come back into the range (42_commands.md section 1). -/
theorem UndoneBelow.returns {D : Nat} {fn gn : Word → Word} (h : UndoneBelow D fn gn) {n x : Word} (hn : n.toNat ≤ D)
    (hx : x.toNat < n.toNat) : ∃ k, 1 ≤ k ∧ k ≤ D - n.toNat + 1 ∧ (fn^[k] x).toNat < n.toNat := by
  by_contra hnone
  have hfar (k : Nat) (hpos : 1 ≤ k) (hle : k ≤ D - n.toNat + 1) : n.toNat ≤ (fn^[k] x).toNat :=
    Nat.not_lt.1 fun hin => hnone ⟨k, hpos, hle, hin⟩
  have hxD : x.toNat < D := hx.trans_le hn
  have hout (i : Nat) (hi : i ∈ Finset.range (D - n.toNat + 1)) : (fn^[i + 1] x).toNat ∈ Finset.Ico n.toNat D :=
    Finset.mem_Ico.2 ⟨hfar (i + 1) (by omega) (by have := Finset.mem_range.1 hi; omega), h.iterate_stays hxD _⟩
  have hfew : (Finset.Ico n.toNat D).card < (Finset.range (D - n.toNat + 1)).card := by
    rw [Nat.card_Ico, Finset.card_range]
    omega
  obtain ⟨i, hi, j, hj, hne, heq⟩ := Finset.exists_ne_map_eq_of_card_lt_of_maps_to hfew hout
  wlog hlt : i < j generalizing i j
  · exact this j hj i hi hne.symm heq.symm (by omega)
  have hround := h.no_repeat hxD (Nat.succ_lt_succ hlt) (BitVec.eq_of_toNat_eq heq)
  have hjmax := Finset.mem_range.1 hj
  have hout := hfar (j + 1 - (i + 1)) (by omega) (by omega)
  rw [hround] at hout
  omega

/-- A walk of an invertible function lands (42_commands.md section 1). -/
theorem UndoneBelow.lands {D : Nat} {fn gn : Word → Word} (h : UndoneBelow D fn gn) {n x : Word} (hn : n.toNat ≤ D)
    (hx : x.toNat < n.toNat) : ∃ k, landsAt fn n x k ∧ k ≤ D - n.toNat + 1 := by
  have hex : ∃ k, 1 ≤ k ∧ (fn^[k] x).toNat < n.toNat := by
    obtain ⟨k, hpos, -, hin⟩ := h.returns hn hx
    exact ⟨k, hpos, hin⟩
  obtain ⟨hpos, hin⟩ := Nat.find_spec hex
  refine ⟨Nat.find hex, ⟨hpos, hin, fun i hi hlt => ?_⟩, ?_⟩
  · exact Nat.not_lt.1 fun hin => Nat.find_min hex hlt ⟨hi, hin⟩
  · obtain ⟨k, hpos, hle, hin⟩ := h.returns hn hx
    exact (Nat.find_min' hex ⟨hpos, hin⟩).trans hle

/-- The walk back passes the same values in the other order: it lands at the start after as many applications
(42_commands.md section 4). -/
theorem UndoneBelow.lands_back {D : Nat} {fn gn : Word → Word} (h : UndoneBelow D fn gn) {n x : Word} {k : Nat} (hn : n.toNat ≤ D)
    (hx : x.toNat < n.toNat) (hk : landsAt fn n x k) : landsAt gn n (fn^[k] x) k ∧ gn^[k] (fn^[k] x) = x := by
  obtain ⟨hpos, -, hfirst⟩ := hk
  have back (i : Nat) (hi : i ≤ k) : gn^[i] (fn^[k] x) = fn^[k - i] x := by
    rw [← h.iterate_undo (hx.trans_le hn) i (k - i), Nat.add_sub_cancel' hi]
  have hstart : gn^[k] (fn^[k] x) = x := by
    rw [back k (le_refl k), Nat.sub_self, Function.iterate_zero_apply]
  refine ⟨⟨hpos, by rwa [hstart], fun i hi hlt => ?_⟩, hstart⟩
  rw [back i hlt.le]
  exact hfirst (k - i) (by omega) (by omega)

/-- The command that walks the other way. -/
def oppositeWalk (i : Instr) : Instr := if i = .shuffle then .unshuffle else .shuffle

theorem oppositeWalk_isWalk (i : Instr) : oppositeWalk i = .shuffle ∨ oppositeWalk i = .unshuffle := by
  cases i <;> decide

/-- The walked core reads the configuration and the ROM only. -/
theorem coreOf_congr {s u : State} (i : Instr) (hcfg : u.cfg = s.cfg) (hsbox : u.sbox = s.sbox) : coreOf i u = coreOf i s := by
  rw [coreOf, coreOf, hcfg, hsbox]

/-- With a count of 0 or more the core of either walk command is undone by that of the other, on the whole domain. -/
theorem coreOf_undoneBelow {s : State} {i : Instr} (hi : i = .shuffle ∨ i = .unshuffle) (hc : s.cfg.Ranged)
    (hr : 0 ≤ s.cfg.rounds.toInt) :
    UndoneBelow (s.cfg.a.toNat * s.cfg.b.toNat) (coreOf i s) (coreOf (oppositeWalk i) s) := by
  rcases hi with rfl | rfl
  · exact ⟨fun _ => encryptCore_lt_domain s.sbox hc, fun _ => decryptCore_encryptCore s.sbox hc hr⟩
  · exact ⟨fun _ => decryptCore_lt_domain s.sbox hc, fun _ => encryptCore_decryptCore s.sbox hc hr⟩

/-- A legal configuration with an operand in range holds a range. -/
theorem ranged_of_lt_rangeLen {c : Cfg} {m : Nat} (hc : c.Legal) (hm : m < c.rangeLen.toNat) : c.Ranged := by
  obtain ⟨⟨hn, -⟩ | hr, -⟩ := hc
  · omega
  · exact hr

theorem rangeLen_lt_domain {c : Cfg} (hc : c.Ranged) : c.rangeLen.toNat < c.a.toNat * c.b.toNat := by
  obtain ⟨-, -, -, hcover, -⟩ := hc
  exact hcover

/-- Settles O39: the core is undone on its domain, so its walk lands, and within the limit. -/
theorem walkAlwaysLandsForNonnegativeRounds : Obligations.WalkAlwaysLandsForNonnegativeRounds := by
  intro s c i hi hc hlegal hrounds hlt
  have hranged := ranged_of_lt_rangeLen hlegal hlt
  have hcover := rangeLen_lt_domain hranged
  obtain ⟨k, hlands, hk⟩ := (coreOf_undoneBelow hi hranged hrounds).lands hcover.le hlt
  exact ⟨k, hlands, hk, exec_walk_of_landsAt hi hc hlt (by omega) hlands⟩

/-- Settles O40: the opposite walk from the result lands back at the operand after as many applications. -/
theorem shuffleAndUnshuffleAreInverse : Obligations.ShuffleAndUnshuffleAreInverse := by
  intro s t u c d i hi hc hlegal hrounds hlt ht hcfg hsbox hd hoperand
  have hranged := ranged_of_lt_rangeLen hlegal hlt
  have hcover := rangeLen_lt_domain hranged
  obtain ⟨k, hlands, hk, hexec⟩ := walkAlwaysLandsForNonnegativeRounds s c i hi hc hlegal hrounds hlt
  rw [hexec] at ht
  cases ht
  replace hcfg : u.cfg = s.cfg := hcfg
  replace hoperand : d.arg0 = (coreOf i s)^[k] c.arg0 := hoperand
  obtain ⟨hback, hstart⟩ := (coreOf_undoneBelow hi hranged hrounds).lands_back hcover.le hlt hlands
  have hcore : coreOf (oppositeWalk i) u = coreOf (oppositeWalk i) s := coreOf_congr _ hcfg hsbox
  have hin : d.arg0.toNat < u.cfg.rangeLen.toNat := by
    obtain ⟨-, hland, -⟩ := hlands
    rwa [hoperand, hcfg]
  have hlimit : k ≤ s.cfg.a.toNat * s.cfg.b.toNat := by omega
  have hanswer := exec_walk_of_landsAt (k := k) (oppositeWalk_isWalk i) hd hin (by rwa [hcfg]) (by rwa [hcore, hoperand, hcfg])
  refine ⟨_, hanswer, rfl, ?_, rfl⟩
  rw [hcore, hoperand]
  exact hstart

/-- Settles O41: the operand is where the walk back from the value lands; any operand with that result is where it lands too. -/
theorem shuffleIsABijectionOfTheRange : Obligations.ShuffleIsABijectionOfTheRange := by
  intro s c hc hlegal hrounds y hy
  have hranged := ranged_of_lt_rangeLen hlegal hy
  have hcover := rangeLen_lt_domain hranged
  have hback : UndoneBelow _ (coreOf .unshuffle s) (coreOf .shuffle s) := coreOf_undoneBelow (.inr rfl) hranged hrounds
  have hforth : UndoneBelow _ (coreOf .shuffle s) (coreOf .unshuffle s) := coreOf_undoneBelow (.inl rfl) hranged hrounds
  obtain ⟨k, hlands, hk⟩ := hback.lands hcover.le hy
  obtain ⟨hagain, hvalue⟩ := hback.lands_back hcover.le hy hlands
  refine ⟨(coreOf .unshuffle s)^[k] y, ⟨?_, ?_⟩, ?_⟩
  · obtain ⟨-, hin, -⟩ := hlands
    exact hin
  · obtain ⟨-, hin, -⟩ := hlands
    exact ⟨_, exec_walk_of_landsAt (s := { s with latch := some { c with arg0 := (coreOf .unshuffle s)^[k] y } }) (.inl rfl) rfl hin
      (by simp only; omega) hagain, rfl, hvalue⟩
  · rintro x ⟨hx, t, ht, -, hresult⟩
    obtain ⟨l, hl, -, hexec⟩ := walkAlwaysLandsForNonnegativeRounds { s with latch := some { c with arg0 := x } } _ .shuffle
      (.inl rfl) rfl hlegal hrounds hx
    rw [hexec] at ht
    cases ht
    obtain ⟨hunland, hunvalue⟩ := hforth.lands_back hcover.le hx hl
    have hy' : (coreOf .shuffle s)^[l] x = y := hresult
    rw [hy'] at hunland hunvalue
    rw [landsAt_unique hlands hunland]
    exact hunvalue.symm

/-- A walk command whose core keeps its operand takes one application. -/
theorem exec_walk_of_fixed {s : State} {c : Latched} {i : Instr} (hi : i = .shuffle ∨ i = .unshuffle) (hc : s.latch = some c)
    (hlt : c.arg0.toNat < s.cfg.rangeLen.toNat) (hdomain : 1 ≤ s.cfg.a.toNat * s.cfg.b.toNat)
    (hfixed : coreOf i s c.arg0 = c.arg0) : exec i s = .next (succeeded { s with result := c.arg0, iterCount := 1 }) := by
  have hanswer := exec_walk_of_landsAt hi hc hlt hdomain (landsAt_one (by rwa [hfixed]))
  rwa [Function.iterate_one, hfixed] at hanswer

/-- With no round to run both walk commands walk one core. -/
theorem coreOf_of_nonpos {s : State} (i : Instr) (h : s.cfg.rounds.toInt ≤ 0) (x : Word) :
    coreOf i s x = encryptCore s.sbox s.cfg x := by
  unfold coreOf
  split
  · exact decryptCore_of_nonpos s.sbox x h
  · rfl

/-- Settles O42: the core is the identity, so the operand is in range after one application. -/
theorem degenerateRoundsWalkOnce : Obligations.DegenerateRoundsWalkOnce := by
  intro s c i hi hc hlegal hlt hrounds heven
  have hcover := rangeLen_lt_domain (ranged_of_lt_rangeLen hlegal hlt)
  exact exec_walk_of_fixed hi hc hlt (by omega)
    ((coreOf_of_nonpos i hrounds _).trans (encryptCore_of_nonpos_even s.sbox _ hrounds heven))

/-- Settles O43: the walk lands within two applications, and the only value in range is 0. -/
theorem oneValueRangeShufflesToItself : Obligations.OneValueRangeShufflesToItself := by
  intro s c i hi hc hn ha hb hpos hmax hzero
  have hlegal : s.cfg.Legal := ⟨.inr (by rw [Cfg.Ranged, hn, ha, hb]; decide), hmax⟩
  obtain ⟨k, ⟨hk1, hin, -⟩, hk2, hexec⟩ := walkAlwaysLandsForNonnegativeRounds s c i hi hc hlegal hpos (by rw [hzero, hn]; decide)
  have hresult : (coreOf i s)^[k] c.arg0 = 0 := BitVec.eq_of_toNat_eq (by rw [hn] at hin; exact Nat.lt_one_iff.1 hin)
  have hcount : k = 1 ∨ k = 2 := by
    rw [hn, ha, hb] at hk2
    have : k ≤ 2 := hk2
    omega
  rw [hresult] at hexec
  exact hcount.imp (fun h => by rw [hexec, h]; rfl) (fun h => by rw [hexec, h]; rfl)

/-- Exchanging quotient and remainder twice does not grow a number: a quotient of `a` or more is itself split again. -/
theorem exchange_exchange_le {a : Nat} (ha : 1 ≤ a) (m : Nat) :
    a * ((a * (m % a) + m / a) % a) + (a * (m % a) + m / a) / a ≤ m := by
  have hm := Nat.div_add_mod m a
  have hq := Nat.div_add_mod (m / a) a
  have hgrow : m / a / a ≤ a * (a * (m / a / a)) :=
    (Nat.le_mul_of_pos_left _ ha).trans (Nat.le_mul_of_pos_left _ ha)
  calc a * ((a * (m % a) + m / a) % a) + (a * (m % a) + m / a) / a
      = a * (m / a % a) + (m % a + m / a / a) := by rw [Nat.mul_add_mod, Nat.mul_add_div ha]
    _ ≤ a * (a * (m / a / a) + m / a % a) + m % a := by
      rw [Nat.mul_add]
      omega
    _ = m := by rw [hq, hm]

/-- With a negative odd count the core's value is the exchange of the operand's halves, exactly. -/
theorem encryptCore_toNat_of_nonpos_odd (t : Sbox) {c : Cfg} {m : Word} (hc : c.Ranged) (hm : m.toNat < c.a.toNat * c.b.toNat)
    (h : c.rounds.toInt ≤ 0) (hodd : c.rounds.toInt % 2 = 1) :
    (encryptCore t c m).toNat = c.a.toNat * (m.toNat % c.a.toNat) + m.toNat / c.a.toNat := by
  have ho : odd c.rounds = true := (odd_rounds_iff c).2 hodd
  rw [encryptCore_of_nonpos t m h, unswap_of_odd ho, join_toNat hc (encryptStart_fits hc hm).swap, encryptStart_rr_toNat,
    encryptStart_ll_toNat]

/-- With a negative count two applications do not leave the range: the core is the identity or the exchange. -/
theorem encryptCore_twice_le_of_nonpos (t : Sbox) {c : Cfg} {m : Word} (hc : c.Ranged) (hm : m.toNat < c.a.toNat * c.b.toNat)
    (h : c.rounds.toInt ≤ 0) : (encryptCore t c (encryptCore t c m)).toNat ≤ m.toNat := by
  rcases Int.emod_two_eq_zero_or_one c.rounds.toInt with heven | hodd
  · rw [encryptCore_of_nonpos_even t _ h heven, encryptCore_of_nonpos_even t _ h heven]
  · have ha : 1 ≤ c.a.toNat := by
      obtain ⟨-, ha, -⟩ := hc
      exact ha
    rw [encryptCore_toNat_of_nonpos_odd t hc (encryptCore_lt_domain t hc hm) h hodd,
      encryptCore_toNat_of_nonpos_odd t hc hm h hodd]
    exact exchange_exchange_le ha m.toNat

/-- Settles O38: the walk lands on its first application or, the second being no larger than the operand, on its second. -/
theorem walkLandsWithinTwoForNegativeRounds : Obligations.WalkLandsWithinTwoForNegativeRounds := by
  intro s c i hi hc hlegal hrounds hlt
  have hranged := ranged_of_lt_rangeLen hlegal hlt
  have hcover := rangeLen_lt_domain hranged
  have hlands : ∃ k, landsAt (coreOf i s) s.cfg.rangeLen c.arg0 k ∧ k ≤ 2 := by
    rcases Nat.lt_or_ge (coreOf i s c.arg0).toNat s.cfg.rangeLen.toNat with hone | hout
    · exact ⟨1, landsAt_one hone, one_le_two⟩
    · refine ⟨2, landsAt_two hout ?_, le_refl 2⟩
      rw [coreOf_of_nonpos i hrounds.le, coreOf_of_nonpos i hrounds.le]
      exact (encryptCore_twice_le_of_nonpos s.sbox hranged (hlt.trans hcover) hrounds.le).trans_lt hlt
  obtain ⟨k, hk, hk2⟩ := hlands
  exact ⟨k, hk, hk2, exec_walk_of_landsAt hi hc hlt (by omega) hk⟩

/-- A SHUFFLE without error had its operand in range. -/
theorem lt_rangeLen_of_shuffle_ok {s t : State} {c : Latched} (hc : s.latch = some c) (h : exec .shuffle s = .next t)
    (hok : t.status.err = false) : c.arg0.toNat < s.cfg.rangeLen.toNat := by
  by_contra hge
  rw [(exec_walks_of_le hc (Nat.not_lt.1 hge)).1] at h
  cases h
  cases hok

/-- SHUFFLE in the spec's example of a negative odd count: every operand in range lands at once on its exchange
(42_commands.md section 4). -/
theorem exec_shuffle_example {s : State} {c : Latched} {seed : Word} (hc : s.latch = some c)
    (hcfg : s.cfg = { rangeLen := 5, rounds := 0xFFFFFFFFFFFFFFFF, seed := seed, a := 2, b := 3 }) (hlt : c.arg0.toNat < 5) :
    exec .shuffle s = .next (succeeded
      { s with result := BitVec.ofNat 64 (2 * (c.arg0.toNat % 2) + c.arg0.toNat / 2), iterCount := 1 }) := by
  have hcore : coreOf .shuffle s c.arg0 = BitVec.ofNat 64 (2 * (c.arg0.toNat % 2) + c.arg0.toNat / 2) := by
    have hrounds : s.cfg.rounds.toInt = -1 := by
      rw [hcfg]
      rfl
    rw [coreOf, if_neg (by decide), encryptCore_of_nonpos_odd s.sbox _ (by omega) (by omega), hcfg]
    rfl
  have hin : (coreOf .shuffle s c.arg0).toNat < s.cfg.rangeLen.toNat := by
    rw [hcore, hcfg, BitVec.toNat_ofNat]
    exact (Nat.mod_le _ _).trans_lt (show _ < 5 by omega)
  have hdomain : s.cfg.a.toNat * s.cfg.b.toNat = 6 := by
    rw [hcfg]
    rfl
  have hanswer := exec_walk_of_landsAt (.inl rfl) hc (by rwa [hcfg]) (by omega) (landsAt_one hin)
  rwa [Function.iterate_one, hcore] at hanswer

/-- Settles O44: the exchange takes 1 and 4 to 2, and takes no value below 5 to 4. -/
theorem negativeOddRoundsAreNotAPermutation : Obligations.NegativeOddRoundsAreNotAPermutation := by
  intro s c seed hc hcfg
  refine ⟨fun hoperand => ?_, fun t ht hok => ?_⟩
  · rcases hoperand with h | h
    · rw [exec_shuffle_example hc hcfg (by rw [h]; decide), h]
      rfl
    · rw [exec_shuffle_example hc hcfg (by rw [h]; decide), h]
      rfl
  · have hlt : c.arg0.toNat < 5 := by
      have := lt_rangeLen_of_shuffle_ok hc ht hok
      rwa [hcfg] at this
    rw [exec_shuffle_example hc hcfg hlt] at ht
    cases ht
    intro hfour
    have hnum : (2 * (c.arg0.toNat % 2) + c.arg0.toNat / 2) % 2 ^ 64 = 4 := congrArg BitVec.toNat hfour
    rw [Nat.mod_eq_of_lt (by omega)] at hnum
    omega

end Sys2Proof.Machine
end
